-- ==== Sys2Proof/Word.lean ====
section
/-! DEFINITION. The widths of this hardware's values (spec/10_state.md section 1, spec/20_memory.md R60, R61).
Everything is unsigned (spec/00_scope.md section 6). -/

namespace Sys2Proof

/-- A frame-buffer cell, F-CELL (R61): bit 0 blue, bit 1 green, bit 2 red. -/
abbrev Pixel := BitVec 3

/-- A cell address, F-FBA (R91): `HALF` in bit 9, `IDX` in bits 8:5, `COL` in bits 4:0. -/
abbrev CellAddr := BitVec 10

/-- The pin register `PIN` (R28), one bit per output pin. -/
abbrev PinReg := BitVec 7

/-- A 192-bit register of the sink: `SR` (R31) or `OUT` (R32). -/
abbrev Chain := BitVec 192

end Sys2Proof
end

