-- ==== Sys2Proof/Syntax.lean ====
section
/-! DEFINITION. The names of the hardware (pins, states, channels, phases), its pin events, and `Instr`: one
constructor per row of spec/opcode_table.json, none with an operand, because every row's bits are all fixed. -/

namespace Sys2Proof

/-- The seven output pins (R28). -/
inductive Pin where
  | data | clk | lat | a8 | a4 | a2 | a1
  deriving DecidableEq, Repr

/-- One pin event (R102): set (`level = true`) or clear (`level = false`) of one pin. -/
structure PinEvent where
  level : Bool
  pin : Pin
  deriving DecidableEq, Repr

/-- The five states of `ST` (R20); the codes 5, 6, 7 are unrepresentable (R104). -/
inductive SeqState where
  | idle | disableLatch | shiftRowPairBits | setRowAddress | enableLatch
  deriving DecidableEq, Repr

/-- The colour channel of `CH` (R23); the value 3 is unrepresentable (R104). -/
inductive Channel where
  | blue | green | red
  deriving DecidableEq, Repr

/-- The phase of `PH` (R25): data write, clock clear, clock set; the value 3 is unrepresentable (R104). -/
inductive Phase where
  | data | clkLow | clkHigh
  deriving DecidableEq, Repr

/-- The operations of spec/opcode_table.json, in its order (R109). -/
inductive Instr where
  | clrData | clrClk | clrLat | clrA8 | clrA4 | clrA2 | clrA1
  | setData | setClk | setLat | setA8 | setA4 | setA2 | setA1
  | idle | disableLatch | shiftRowPairBits | setRowAddress | enableLatch
  | start
  deriving DecidableEq, Repr

/-- A code word with its format (R90): the three formats of the opcode table overlap as numbers, so the format is
part of the word. -/
inductive CodeWord where
  /-- F-EVENT (R102), 4 bits: the level in bit 3, the pin number in bits 2:0. -/
  | event (w : BitVec 4)
  /-- F-STATE (R103), 3 bits. -/
  | state (w : BitVec 3)
  /-- F-CMD (R109), 1 bit. -/
  | cmd (w : BitVec 1)
  deriving DecidableEq, Repr

end Sys2Proof
end

