-- ==== Sys2Proof/WellFormed.lean ====
section
/-! DEFINITION. Well-formedness. No instruction has an operand, so every `Instr` is well-formed; what can be
ill-formed is a code word (R104, R109). -/

namespace Sys2Proof

/-- The event words `7` and `F` (pin number 7) name no pin (R104). -/
def eventWordOk (w : BitVec 4) : Bool := w.extractLsb' 0 3 != 7#3

/-- The state codes 5, 6, 7 name no state (R104). -/
def stateWordOk (w : BitVec 3) : Bool := w.toNat ≤ 4

/-- Only the request bit 1 is the command `START`; 0 does nothing (R109). -/
def cmdWordOk (w : BitVec 1) : Bool := w == 1#1

/-- The code words that name an operation of the table. -/
def CodeWord.wellFormed : CodeWord → Bool
  | .event w => eventWordOk w
  | .state w => stateWordOk w
  | .cmd w => cmdWordOk w

/-- Every instruction is well-formed: a row of the opcode table has no field that could hold an illegal value. -/
def Instr.wellFormed (_ : Instr) : Bool := true

end Sys2Proof
end

