-- ==== Sys2Proof/Decode.lean ====
section
/-! DEFINITION. Decoding and encoding of the three code formats of the opcode table (R102, R103, R104, R109). Decoding
is total; a word that names nothing is rejected by name. Every word stands alone (R108). -/

namespace Sys2Proof

/-- Why a code word names no operation. -/
inductive DecodeError where
  /-- Event words `7` and `F`: pin number 7 does not exist (R104, U7). -/
  | reservedPin (level : Bool)
  /-- State codes 5, 6, 7 name no state (R104, U6). -/
  | unusedStateCode (code : BitVec 3)
  /-- Request bit 0: no command (R109). -/
  | noRequest
  deriving DecidableEq, Repr

/-- The pin numbers of R102 (D12). -/
def Pin.num : Pin → Nat
  | .data => 0 | .clk => 1 | .lat => 2 | .a8 => 3 | .a4 => 4 | .a2 => 5 | .a1 => 6

/-- The pin of a number; 7 is reserved (R102, R104). -/
def pinOfNum : Nat → Option Pin
  | 0 => some .data | 1 => some .clk | 2 => some .lat | 3 => some .a8
  | 4 => some .a4 | 5 => some .a2 | 6 => some .a1 | _ => none

/-- The state codes of R103 (D13). -/
def SeqState.code : SeqState → BitVec 3
  | .idle => 0#3 | .disableLatch => 1#3 | .shiftRowPairBits => 2#3
  | .setRowAddress => 3#3 | .enableLatch => 4#3

/-- The state of a code; 5, 6, 7 name none (R103, R104). -/
def stateOfCode (w : BitVec 3) : Option SeqState :=
  match w.toNat with
  | 0 => some .idle | 1 => some .disableLatch | 2 => some .shiftRowPairBits
  | 3 => some .setRowAddress | 4 => some .enableLatch | _ => none

/-- The primitive operation that performs a pin event (R105). -/
def PinEvent.instr : PinEvent → Instr
  | ⟨false, .data⟩ => .clrData | ⟨true, .data⟩ => .setData
  | ⟨false, .clk⟩ => .clrClk | ⟨true, .clk⟩ => .setClk
  | ⟨false, .lat⟩ => .clrLat | ⟨true, .lat⟩ => .setLat
  | ⟨false, .a8⟩ => .clrA8 | ⟨true, .a8⟩ => .setA8
  | ⟨false, .a4⟩ => .clrA4 | ⟨true, .a4⟩ => .setA4
  | ⟨false, .a2⟩ => .clrA2 | ⟨true, .a2⟩ => .setA2
  | ⟨false, .a1⟩ => .clrA1 | ⟨true, .a1⟩ => .setA1

/-- The operation a state of the sequencer executes (R109). -/
def SeqState.instr : SeqState → Instr
  | .idle => .idle | .disableLatch => .disableLatch | .shiftRowPairBits => .shiftRowPairBits
  | .setRowAddress => .setRowAddress | .enableLatch => .enableLatch

/-- F-EVENT (R102): bit 3 is the level, bits 2:0 the pin number. -/
def decodeEvent (w : BitVec 4) : Except DecodeError PinEvent :=
  match pinOfNum (w.extractLsb' 0 3).toNat with
  | some p => .ok ⟨w.getLsbD 3, p⟩
  | none => .error (.reservedPin (w.getLsbD 3))

/-- F-STATE (R103). -/
def decodeState (w : BitVec 3) : Except DecodeError SeqState :=
  match stateOfCode w with
  | some q => .ok q
  | none => .error (.unusedStateCode w)

/-- The operation a code word names, or why it names none. -/
def decode : CodeWord → Except DecodeError Instr
  | .event w =>
    match decodeEvent w with
    | .ok e => .ok e.instr
    | .error r => .error r
  | .state w =>
    match decodeState w with
    | .ok q => .ok q.instr
    | .error r => .error r
  | .cmd w => if w == 1#1 then .ok .start else .error .noRequest

/-- F-EVENT (R102): the word of a pin event. -/
def PinEvent.word (e : PinEvent) : BitVec 4 :=
  BitVec.ofBool e.level ++ BitVec.ofNat 3 e.pin.num

/-- The code word of an instruction, from the tables of R102, R103 and R109. -/
def encode : Instr → CodeWord
  | .clrData => .event 0x0#4 | .clrClk => .event 0x1#4 | .clrLat => .event 0x2#4
  | .clrA8 => .event 0x3#4 | .clrA4 => .event 0x4#4 | .clrA2 => .event 0x5#4 | .clrA1 => .event 0x6#4
  | .setData => .event 0x8#4 | .setClk => .event 0x9#4 | .setLat => .event 0xA#4
  | .setA8 => .event 0xB#4 | .setA4 => .event 0xC#4 | .setA2 => .event 0xD#4 | .setA1 => .event 0xE#4
  | .idle => .state 0#3 | .disableLatch => .state 1#3 | .shiftRowPairBits => .state 2#3
  | .setRowAddress => .state 3#3 | .enableLatch => .state 4#3
  | .start => .cmd 1#1

/-- A trace is decoded one word at a time (R108). DESIGN CHOICE (log 17): a list that holds a reserved word decodes to no
trace, with the leftmost such word's reason; the spec calls only that word invalid (R104). -/
def decodeTrace : List (BitVec 4) → Except DecodeError (List PinEvent)
  | [] => .ok []
  | w :: ws =>
    match decodeEvent w, decodeTrace ws with
    | .ok e, .ok es => .ok (e :: es)
    | .error r, _ => .error r
    | _, .error r => .error r

/-- The code word that the opcode table's numbering gives: the table's widths are 4 (F-EVENT), 3 (F-STATE) and 1
(F-CMD). A width of 8, a whole byte, cannot tell the three formats apart and is read as F-EVENT (log 8). -/
def tableWord (nbits w : Nat) : Option CodeWord :=
  match nbits with
  | 1 => if w < 2 then some (.cmd (BitVec.ofNat 1 w)) else none
  | 3 => if w < 8 then some (.state (BitVec.ofNat 3 w)) else none
  | 4 => if w < 16 then some (.event (BitVec.ofNat 4 w)) else none
  | 8 => if w < 16 then some (.event (BitVec.ofNat 4 w)) else none
  | _ => none

/-- The instruction the decoder reads from a table word. -/
def decodeTableWord (nbits w : Nat) : Option Instr :=
  match tableWord nbits w with
  | some cw =>
    match decode cw with
    | .ok i => some i
    | .error _ => none
  | none => none

end Sys2Proof
end

