-- ==== Sys2Proof/Config.lean ====
section
/-! DEFINITION. What an implementation fixes: the named parameters of R6 and of spec/92_eei_decisions.md (their
chosen values stand in Machine/Params.lean), and the free values, which the spec leaves without any law. -/

namespace Sys2Proof

/-- `PAIR_ORDER` (D2): which row of a pair is shifted first. -/
inductive PairOrder where
  | lowFirst | highFirst
  deriving DecidableEq, Repr

/-- `NESTING` (D3): the order of the row, channel and column loops, outermost first. -/
inductive Nesting where
  | rowChannelColumn | channelRowColumn
  deriving DecidableEq, Repr

/-- A direction of counting: `COL_ORDER` (D4), and the direction of the index loop (D14). -/
inductive Direction where
  | ascending | descending
  deriving DecidableEq, Repr

/-- `CLK_COMMIT` (D7): which edge of `CLK` commits a bit. -/
inductive ClkCommit where
  | rising | falling
  deriving DecidableEq, Repr

/-- `FB_WRITE_WHILE_BUSY` (D21): what a frame-buffer write during a refresh is. -/
inductive BusyWrite where
  | refused | torn
  deriving DecidableEq, Repr

/-- The parameters (R6, and the index direction of D14). -/
structure Config where
  pairOrder : PairOrder
  nesting : Nesting
  colOrder : Direction
  indexOrder : Direction
  latEnableLevel : Bool
  clkCommit : ClkCommit
  pinReset : PinReg
  fbWriteWhileBusy : BusyWrite
  deriving DecidableEq, Repr

/-- The contents of `SR` at power-on: "unspecified: no value; a model draws it" (R37, R211). DESIGN CHOICE, log 1. -/
opaque Config.resetSr : Chain

/-- The contents of `OUT` at power-on: "unspecified: no value; a model draws it" (R37, R211). DESIGN CHOICE, log 1. -/
opaque Config.resetOut : Chain

/-- The contents of `OUT` where the spec stops giving it a meaning (R209, U1), one value per draw. DESIGN CHOICE,
log 3. -/
opaque Config.freeOut : Nat → Chain

end Sys2Proof
end

