-- ==== Sys2Proof/Machine/Params.lean ====
section
/-! DEFINITION. The values of the parameters of this model: the defaults the spec decided (R6, D2 to D5, D7, D14, D15,
D21). A golden sequence of the original firmware could overturn them (spec/92_eei_decisions.md, last paragraph). -/

namespace Sys2Proof.Machine

/-- The defaults of R6 and, for the index direction, of D14. -/
def Params.chip : Config where
  pairOrder := .lowFirst
  nesting := .rowChannelColumn
  colOrder := .ascending
  indexOrder := .ascending
  latEnableLevel := true
  clkCommit := .rising
  pinReset := 0#7
  fbWriteWhileBusy := .refused

end Sys2Proof.Machine
end

