-- ==== Sys2Proof/Machine/State.lean ====
section
/-! DEFINITION. The state of the system as plain data: every piece of state of spec/10_state.md, and two fields of the
model's own (`inputs`, `free`). The reasons a step can stop. The state after reset (R37). -/

namespace Sys2Proof.Machine

/-- The frame buffer (R35, R60) as the list of the cells that hold a value: addresses strictly rising, each below 1024.
An unlisted cell holds no value (R37: "unspecified until the host has written every cell"). -/
abbrev Memory := List (Nat × Pixel)

/-- The reasons for which the protocol monitor sets `FAULT` (R209, R233). The mark is part of the state: the machine
goes on, and `OUT` is a free value from then on. Safe. -/
inductive ProtocolFault where
  /-- `shift_while_latched`: a bit was committed with the latch enabled (R209(a), U1). -/
  | shiftWhileLatched
  /-- `foreign_pin_write`: a pin event while busy by anything other than the sequencer (R209(b), U3). -/
  | foreignPinWrite
  deriving DecidableEq, Repr

/-- What the host can do to the block: the first two rows of the table of R240. The table gives the host no pin operation
after boot, so there is no such move. -/
inductive Move where
  /-- The `START` request line (F-CMD, R109): 1 requests a refresh, 0 does nothing. -/
  | cmd (req : BitVec 1)
  /-- `MemWrite` of one frame-buffer cell (R62, R63). -/
  | write (addr : CellAddr) (cell : Pixel)
  deriving DecidableEq, Repr

/-- What comes from outside the block, and when it lands (log 4). -/
inductive Input where
  /-- A move of the host, which acts only while `BUSY = 0` (R236, R240): it waits for that. -/
  | host (m : Move)
  /-- The same move landing at the next step whether or not the block is busy: what the contract excludes (R233). -/
  | forced (m : Move)
  /-- One event word (F-EVENT, R102) that neither the sequencer nor the host issues, landing at the next step: a
  hand-written pin program applied to the sink (spec/95_test_vectors.md P4, P5), or, while busy, the foreign pin write
  of R209(b) and U3 (log 15). -/
  | foreign (word : BitVec 4)
  deriving DecidableEq, Repr

/-- Why the machine stops. -/
inductive Fault where
  /-- Raised by the data step of ShiftRowPairBits: "a model treats such a read as a fault" (R261, U12), for a cell that
  holds no value. Safe: the hardware would send some bit. -/
  | unwrittenCell (addr : CellAddr)
  deriving DecidableEq, Repr

/-- Why something has no meaning. -/
inductive Refusal where
  /-- Raised by a dispatch arm whose instruction has no meaning yet. Safe. -/
  | notModelled (mnemonic : String)
  /-- Raised by `START` unless `ST = Idle`: "The model gives the host no such move (refusal)" (R183, U4). Safe. -/
  | startWhileBusy
  /-- Raised by a frame-buffer write while busy under `FB_WRITE_WHILE_BUSY = refused` (R71, U2). Safe. -/
  | writeWhileBusy
  /-- Raised by a step given a code word that names nothing (R104, U6, U7). Safe. -/
  | undecodable (e : DecodeError)
  deriving DecidableEq, Repr

/-- The state of the system. -/
structure State where
  /-- `ST` (R20), the program counter. -/
  st : SeqState
  /-- `IDX` (R21). -/
  idx : BitVec 4
  /-- `HALF` (R22). -/
  half : BitVec 1
  /-- `CH` (R23). -/
  ch : Channel
  /-- `COL` (R24). -/
  col : BitVec 5
  /-- `PH` (R25). -/
  ph : Phase
  /-- `AB` (R26). -/
  ab : BitVec 2
  /-- `PIN` (R28). -/
  pin : PinReg
  /-- `BUSY` (R30). -/
  busy : Bool
  /-- `SR` (R31). -/
  sr : Chain
  /-- `OUT` (R32). -/
  out : Chain
  /-- `FAULT` (R34): `none` is 0, `some reason` is 1; the reason is the first one (R233). -/
  fault : Option ProtocolFault
  /-- `FB` (R35). -/
  fb : Memory
  /-- `TRACE` (R36), oldest first. -/
  trace : List PinEvent
  /-- The model's own: what is still to come from outside, oldest first (log 4). -/
  inputs : List Input
  /-- The model's own: how many free values have been drawn (log 3). -/
  free : Nat
  deriving DecidableEq, Repr

/-- What executing an instruction answers. -/
abbrev Result := Host.Outcome State Fault Refusal

/-- The machine right after power-on, the only reset (R37, R260). `SR` and `OUT` are free values (log 1); no cell of `FB`
holds a value. -/
def State.reset : State where
  st := .idle
  idx := 0#4
  half := 0#1
  ch := .blue
  col := 0#5
  ph := .data
  ab := 0#2
  pin := Params.chip.pinReset
  busy := false
  sr := Config.resetSr
  out := Config.resetOut
  fault := none
  fb := []
  trace := []
  inputs := []
  free := 0

end Sys2Proof.Machine
end

