-- ==== Sys2Proof/Machine/Operands.lean ====
section
/-! DEFINITION. The operand forms: reading and writing a cell, the frame-buffer address and the bit it selects (R60 to
R62, R91, R155), levels of the pin register (R28), the address lines (R92, R173, R174) and the views of the state that
the spec names (`ADDR` R33, `K` R27). -/

namespace Sys2Proof.Machine

/-! ## Memory -/

/-- The addresses of the listed cells rise strictly from `lo` on and stay below 1024. -/
def Memory.wfFrom : Nat → Memory → Bool
  | _, [] => true
  | lo, (a, _) :: m => decide (lo ≤ a) && decide (a < 1024) && Memory.wfFrom (a + 1) m

/-- The canonical form: addresses strictly rising, each of the 1024 cells at most once (R60). -/
def Memory.wf (m : Memory) : Bool := Memory.wfFrom 0 m

/-- `MemRead(a, 1)` (R62): the cell at address `a`, or nothing where the cell holds no value (U12). -/
def Memory.read : Memory → Nat → Option Pixel
  | [], _ => none
  | (b, p) :: m, a => if a = b then some p else Memory.read m a

/-- `MemWrite(a, 1, v)` (R62, R63), a host operation, keeping the addresses in order. -/
def Memory.write : Memory → Nat → Pixel → Memory
  | [], a, v => [(a, v)]
  | (b, p) :: m, a, v =>
    if a < b then (a, v) :: (b, p) :: m
    else if a = b then (a, v) :: m
    else (b, p) :: Memory.write m a v

/-! ## The bit to send -/

/-- `CH` as a number (R23), which is also the bit number of the channel in a cell (R61). -/
def channelNum : Channel → Nat
  | .blue => 0 | .green => 1 | .red => 2

/-- `PH` as a number (R25). -/
def phaseNum : Phase → Nat
  | .data => 0 | .clkLow => 1 | .clkHigh => 2

/-- The half of the pair that `HALF` selects: itself under `PAIR_ORDER = low_first` (R22, D2). -/
def sentHalf (c : Config) (half : BitVec 1) : BitVec 1 :=
  match c.pairOrder with
  | .lowFirst => half
  | .highFirst => ~~~half

/-- The column that `COL` selects: itself under `COL_ORDER = ascending` (R24, R96, D4). -/
def sentCol (c : Config) (col : BitVec 5) : BitVec 5 :=
  match c.colOrder with
  | .ascending => col
  | .descending => 31#5 - col

/-- The effective address of the data step, `{HALF, IDX, COL}` (R91, R155). -/
def cellAddr (c : Config) (idx : BitVec 4) (half : BitVec 1) (col : BitVec 5) : CellAddr :=
  sentHalf c half ++ idx ++ sentCol c col

/-- One channel bit of one cell, `MemRead(a, 1)[ch]` (R62). -/
def Memory.bit (m : Memory) (a : Nat) (ch : Channel) : Option Bool :=
  match m.read a with
  | some p => some (p.getLsbD (channelNum ch))
  | none => none

/-! ## Pins -/

/-- `PIN[p]` (R28). -/
def level (r : PinReg) (p : Pin) : Bool := r.getLsbD p.num

/-- `PIN[p] <- v` (R28, R130). -/
def setLevel (r : PinReg) (p : Pin) (v : Bool) : PinReg :=
  if v then r ||| BitVec.twoPow 7 p.num else r &&& ~~~(BitVec.twoPow 7 p.num)

/-- The address line that `AB` selects, pin `3 + AB` (R26, R173). -/
def addrPin (ab : BitVec 2) : Pin :=
  match ab.toNat with
  | 0 => .a8 | 1 => .a4 | 2 => .a2 | _ => .a1

/-- `IDX[3 - AB]` (R173, R174). -/
def addrBit (idx : BitVec 4) (ab : BitVec 2) : Bool := idx.getLsbD (3 - ab.toNat)

/-! ## The order of the row indices -/

/-- The index that `START` writes: 0 under the ascending order (R170, D14). -/
def firstIdx (c : Config) : BitVec 4 :=
  match c.indexOrder with
  | .ascending => 0#4
  | .descending => 15#4

/-- The index after which a refresh ends: 15 under the ascending order (R175, D14). -/
def lastIdx (c : Config) : BitVec 4 :=
  match c.indexOrder with
  | .ascending => 15#4
  | .descending => 0#4

/-- The next index, taken only before the last one (R175). -/
def nextIdx (c : Config) (idx : BitVec 4) : BitVec 4 :=
  match c.indexOrder with
  | .ascending => idx + 1#4
  | .descending => idx - 1#4

/-! ## Views -/

/-- `ADDR = {PIN[A8], PIN[A4], PIN[A2], PIN[A1]}` (R33). -/
def addr (s : State) : BitVec 4 :=
  BitVec.ofBool (level s.pin .a8) ++ BitVec.ofBool (level s.pin .a4) ++ BitVec.ofBool (level s.pin .a2)
    ++ BitVec.ofBool (level s.pin .a1)

/-- `FAULT` as the one bit of R34. -/
def faultBit (s : State) : Bool := s.fault.isSome

/-- What the host gets back from the block: `BUSY` and nothing else (R240). -/
def hostRead (s : State) : Bool := s.busy

/-- `K` (R27), the number of events already issued in the current refresh; 0 in Idle, where R27 defines none. It is
written for the default parameters. -/
def position (s : State) : Nat :=
  match s.st with
  | .idle => 0
  | .disableLatch => 582 * s.idx.toNat
  | .shiftRowPairBits =>
    582 * s.idx.toNat + 1 + 3 * (96 * s.half.toNat + 32 * channelNum s.ch + s.col.toNat) + phaseNum s.ph
  | .setRowAddress => 582 * s.idx.toNat + 577 + s.ab.toNat
  | .enableLatch => 582 * s.idx.toNat + 581

end Sys2Proof.Machine
end

