-- ==== Sys2Proof/Machine/Flags.lean ====
section
/-! DEFINITION. The two flag-like bits, `BUSY` (R30) and the sticky `FAULT` (R34), and the edges the sink detects
(R200, R201, R203). There are no condition codes (spec/10_state.md section 5). -/

namespace Sys2Proof.Machine

/-- `BUSY <- 1` (R30, R170). -/
def setBusy (s : State) : State := { s with busy := true }

/-- `BUSY <- 0` (R30, R175). -/
def clearBusy (s : State) : State := { s with busy := false }

/-- `raise ProtocolFault(r)` (R209, R233): `FAULT` is set and keeps its first reason; no step clears it (R34). -/
def raiseProtocol (r : ProtocolFault) (s : State) : State := { s with fault := some (s.fault.getD r) }

/-- The edge of `CLK` that commits a bit, from the levels before and after (R200, R201). -/
def commitEdge (c : Config) (before after : PinReg) : Bool :=
  match c.clkCommit with
  | .rising => !level before .clk && level after .clk
  | .falling => level before .clk && !level after .clk

/-- The disable-to-enable transition of `LAT` (R200, R203). -/
def enableEdge (c : Config) (before after : PinReg) : Bool :=
  level before .lat != c.latEnableLevel && level after .lat == c.latEnableLevel

end Sys2Proof.Machine
end

