-- ==== Sys2Proof/Machine/Ops.lean ====
section
/-! DEFINITION. The shared operations: the primitive pin operation with the sink's reaction (R130, R200 to R203, R209),
the counters of the shift state (R157), the host's moves (R170, R240), and how a step finds what it executes. The hardware
has no exception to take and none to return from (R237, R238); what takes their place is `raiseProtocol` of Flags.lean,
called here by the monitor. -/

namespace Sys2Proof.Machine

/-! ## The panel sink -/

/-- `{SR[190:0], d}` (R201). -/
def shiftIn (sr : Chain) (d : Bool) : Chain := (sr.extractLsb' 0 191).concat d

/-- The monitor's case (a) (R209): a commit with the latch enabled. -/
def monitorCommit (c : Config) (s : State) : State :=
  if level s.pin .lat == c.latEnableLevel then raiseProtocol .shiftWhileLatched s else s

/-- The commit on the edge of `CLK` (R201, R202); `before` is the pin register before the event. -/
def commit (c : Config) (before : PinReg) (s : State) : State :=
  if commitEdge c before s.pin then monitorCommit c { s with sr := shiftIn s.sr (level s.pin .data) } else s

/-- The transfer on the enable of `LAT` (R203). -/
def transfer (c : Config) (before : PinReg) (s : State) : State :=
  if enableEdge c before s.pin then { s with out := s.sr } else s

/-- Once `FAULT` is set, `OUT` has no meaning (R209, U1): every later pin event draws it anew (log 3). -/
def drawOut (s : State) : State :=
  match s.fault with
  | none => s
  | some _ => { s with out := Config.freeOut s.free, free := s.free + 1 }

/-- The sink's reaction to a pin event, within the step that issues it (R200). -/
def sinkReact (c : Config) (before : PinReg) (s : State) : State :=
  drawOut (transfer c before (commit c before s))

/-- The primitive pin operation (R130): the pin is written, the event is appended, the sink reacts (D28: in this
order). -/
def emit (c : Config) (p : Pin) (v : Bool) (s : State) : State :=
  sinkReact c s.pin { s with pin := setLevel s.pin p v, trace := s.trace ++ [⟨v, p⟩] }

/-! ## The sequencer -/

/-- What the last bit of a row pair does: the counters are back at 0 and the address is next (R157). -/
def endShift (s : State) : State := { s with ab := 0#2, st := .setRowAddress }

/-- `HALF` as the outer digit (R157). -/
def advanceHalfOuter (s : State) : State :=
  if s.half = 0#1 then { s with half := 1#1 } else endShift { s with half := 0#1 }

/-- `CH` inside `HALF`, `NESTING = row_channel_column` (R98, R157). -/
def advanceChannelInner (s : State) : State :=
  match s.ch with
  | .blue => { s with ch := .green }
  | .green => { s with ch := .red }
  | .red => advanceHalfOuter { s with ch := .blue }

/-- `CH` as the outer digit, `NESTING = channel_row_column` (D3). -/
def advanceChannelOuter (s : State) : State :=
  match s.ch with
  | .blue => { s with ch := .green }
  | .green => { s with ch := .red }
  | .red => endShift { s with ch := .blue }

/-- `HALF` inside `CH`, `NESTING = channel_row_column` (D3). -/
def advanceHalfInner (s : State) : State :=
  if s.half = 0#1 then { s with half := 1#1 } else advanceChannelOuter { s with half := 0#1 }

/-- The counters' step from one bit to the next (R157). -/
def advance (c : Config) (s : State) : State :=
  if s.col.toNat < 31 then { s with col := s.col + 1#5 }
  else
    match c.nesting with
    | .rowChannelColumn => advanceChannelInner { s with col := 0#5 }
    | .channelRowColumn => advanceHalfInner { s with col := 0#5 }

/-- The data step (R155): one bit of one cell goes to `DATA`; a cell that holds no value faults (U12). -/
def dataStep (c : Config) (s : State) : Result :=
  match s.fb.bit (cellAddr c s.idx s.half s.col).toNat s.ch with
  | some v => .next { emit c .data v s with ph := .clkLow }
  | none => .fault (.unwrittenCell (cellAddr c s.idx s.half s.col))

/-- The clock-low step (R156). -/
def clockLowStep (c : Config) (s : State) : State := { emit c .clk false s with ph := .clkHigh }

/-- The clock-high step (R157). -/
def clockHighStep (c : Config) (s : State) : State := advance c { emit c .clk true s with ph := .data }

/-- One step of SetRowAddress (R173): one address line is written. -/
def addressStep (c : Config) (s : State) : State :=
  let t := emit c (addrPin s.ab) (addrBit s.idx s.ab) s
  if s.ab.toNat < 3 then { t with ab := s.ab + 1#2 } else { t with ab := 0#2, st := .enableLatch }

/-- The step of DisableLatch (R172). -/
def disableStep (c : Config) (s : State) : State :=
  { emit c .lat (!c.latEnableLevel) s with
    half := 0#1, ch := .blue, col := 0#5, ph := .data, st := .shiftRowPairBits }

/-- The step of EnableLatch (R175): the next row index, or Idle after the last. -/
def enableStep (c : Config) (s : State) : State :=
  let t := emit c .lat c.latEnableLevel s
  if s.idx = lastIdx c then clearBusy { t with idx := 0#4, st := .idle }
  else { t with idx := nextIdx c s.idx, st := .disableLatch }

/-- `START` (R170), refused unless `ST = Idle` (R183). -/
def startRefresh (c : Config) (s : State) : Result :=
  if s.st = .idle then .next (setBusy { s with idx := firstIdx c, st := .disableLatch })
  else .refused .startWhileBusy

/-! ## The host -/

/-- A frame-buffer write of the host (R63, R71): refused while busy, unless `FB_WRITE_WHILE_BUSY = torn`. -/
def hostWrite (c : Config) (a : CellAddr) (v : Pixel) (s : State) : Result :=
  match s.busy, c.fbWriteWhileBusy with
  | true, .refused => .refused .writeWhileBusy
  | true, .torn => .next { s with fb := s.fb.write a.toNat v }
  | false, _ => .next { s with fb := s.fb.write a.toNat v }

/-- What one step performs: a code word, or a frame-buffer write of the host. -/
inductive Action where
  | word (w : CodeWord)
  | write (addr : CellAddr) (cell : Pixel)
  deriving DecidableEq, Repr

/-- The sequencer's own next operation: the state that `ST` names (R20). -/
def seqAction (s : State) : Action := .word (.state s.st.code)

/-- What a move of the host makes the step perform. A request line at 0 does nothing (R109), so the sequencer has the step. -/
def moveAction (s : State) : Move → Action
  | .cmd req => if req == 1#1 then .word (.cmd req) else seqAction s
  | .write a v => .write a v

/-- What the next step performs, and the state with the used input taken away. With no input, or with a host move that
waits for `BUSY = 0` (R236, R240), the sequencer has the step. -/
def fetch (s : State) : Action × State :=
  match s.inputs with
  | [] => (seqAction s, s)
  | .host m :: rest => if s.busy then (seqAction s, s) else (moveAction s m, { s with inputs := rest })
  | .forced m :: rest => (moveAction s m, { s with inputs := rest })
  | .foreign w :: rest => (.word (.event w), { s with inputs := rest })

/-- The monitor's case (b) (R209): a pin event given from outside while `BUSY = 1`. The sequencer's own events are issued
inside its states' operations and never come this way. -/
def monitorForeign (w : CodeWord) (s : State) : State :=
  match w with
  | .event _ => if s.busy then raiseProtocol .foreignPinWrite s else s
  | .state _ => s
  | .cmd _ => s

/-- The state in which the next step performs exactly the code word `w`: a state code is put in `ST`; an event word or a
command is put before all other inputs, in Idle, where the one is not foreign to a refresh (R209(b)) and the host may
give the other (R240). A state code that names no state
changes nothing. -/
def placeWord (w : CodeWord) (s : State) : State :=
  match w with
  | .event e => { s with st := .idle, busy := false, inputs := .foreign e :: s.inputs }
  | .cmd r => { s with st := .idle, busy := false, inputs := .host (.cmd r) :: s.inputs }
  | .state q =>
    match stateOfCode q with
    | some .idle => { s with st := .idle, busy := false, inputs := .forced (.cmd 0#1) :: s.inputs }
    | some q => { s with st := q, busy := true, inputs := .forced (.cmd 0#1) :: s.inputs }
    | none => s

end Sys2Proof.Machine
end

