-- ==== Sys2Proof/Machine/Pins.lean ====
section
/-! DEFINITION. The fourteen primitive pin operations (spec/40_pin_operations.md), each R130 for its pin and level. -/

namespace Sys2Proof.Machine

/-- `CLR DATA` (R132). -/
def execClrData (s : State) : Result := .next (emit Params.chip .data false s)

/-- `SET DATA` (R131). -/
def execSetData (s : State) : Result := .next (emit Params.chip .data true s)

/-- `CLR CLK` (R133). -/
def execClrClk (s : State) : Result := .next (emit Params.chip .clk false s)

/-- `SET CLK` (R134). -/
def execSetClk (s : State) : Result := .next (emit Params.chip .clk true s)

/-- `CLR LAT` (R135). -/
def execClrLat (s : State) : Result := .next (emit Params.chip .lat false s)

/-- `SET LAT` (R136). -/
def execSetLat (s : State) : Result := .next (emit Params.chip .lat true s)

/-- `CLR A8` (R138). -/
def execClrA8 (s : State) : Result := .next (emit Params.chip .a8 false s)

/-- `SET A8` (R137). -/
def execSetA8 (s : State) : Result := .next (emit Params.chip .a8 true s)

/-- `CLR A4` (R140). -/
def execClrA4 (s : State) : Result := .next (emit Params.chip .a4 false s)

/-- `SET A4` (R139). -/
def execSetA4 (s : State) : Result := .next (emit Params.chip .a4 true s)

/-- `CLR A2` (R142). -/
def execClrA2 (s : State) : Result := .next (emit Params.chip .a2 false s)

/-- `SET A2` (R141). -/
def execSetA2 (s : State) : Result := .next (emit Params.chip .a2 true s)

/-- `CLR A1` (R144). -/
def execClrA1 (s : State) : Result := .next (emit Params.chip .a1 false s)

/-- `SET A1` (R143). -/
def execSetA1 (s : State) : Result := .next (emit Params.chip .a1 true s)

end Sys2Proof.Machine
end

