-- ==== Sys2Proof/Machine/Rows.lean ====
section
/-! DEFINITION. The row multiplexer (spec/42_row_operations.md): `START` and the states Idle, DisableLatch, SetRowAddress
and EnableLatch. -/

namespace Sys2Proof.Machine

/-- `START` (R170, R183). -/
def execStart (s : State) : Result := startRefresh Params.chip s

/-- Idle (R171): "it emits nothing, changes nothing and holds". -/
def execIdle (s : State) : Result := .next s

/-- DisableLatch (R172). -/
def execDisableLatch (s : State) : Result := .next (disableStep Params.chip s)

/-- SetRowAddress (R173), one of its four steps. -/
def execSetRowAddress (s : State) : Result := .next (addressStep Params.chip s)

/-- EnableLatch (R175). -/
def execEnableLatch (s : State) : Result := .next (enableStep Params.chip s)

end Sys2Proof.Machine
end

