-- ==== Sys2Proof/Machine/Shift.lean ====
section
/-! DEFINITION. The state ShiftRowPairBits (spec/41_shift_operations.md): one of three steps, chosen by `PH`. -/

namespace Sys2Proof.Machine

/-- One step of ShiftRowPairBits (R154 by its steps R155, R156, R157). -/
def execShiftRowPairBits (s : State) : Result :=
  match s.ph with
  | .data => dataStep Params.chip s
  | .clkLow => .next (clockLowStep Params.chip s)
  | .clkHigh => .next (clockHighStep Params.chip s)

end Sys2Proof.Machine
end

