-- ==== Sys2Proof/Machine/Dispatch.lean ====
section
/-! DEFINITION. One arm per constructor of Instr. -/

namespace Sys2Proof.Machine

def exec (i : Instr) (s : State) : Host.Outcome State Fault Refusal :=
  match i with
  | .clrData => Sys2Proof.Machine.execClrData s
  | .clrClk => Sys2Proof.Machine.execClrClk s
  | .clrLat => Sys2Proof.Machine.execClrLat s
  | .clrA8 => Sys2Proof.Machine.execClrA8 s
  | .clrA4 => Sys2Proof.Machine.execClrA4 s
  | .clrA2 => Sys2Proof.Machine.execClrA2 s
  | .clrA1 => Sys2Proof.Machine.execClrA1 s
  | .setData => Sys2Proof.Machine.execSetData s
  | .setClk => Sys2Proof.Machine.execSetClk s
  | .setLat => Sys2Proof.Machine.execSetLat s
  | .setA8 => Sys2Proof.Machine.execSetA8 s
  | .setA4 => Sys2Proof.Machine.execSetA4 s
  | .setA2 => Sys2Proof.Machine.execSetA2 s
  | .setA1 => Sys2Proof.Machine.execSetA1 s
  | .idle => Sys2Proof.Machine.execIdle s
  | .disableLatch => Sys2Proof.Machine.execDisableLatch s
  | .shiftRowPairBits => Sys2Proof.Machine.execShiftRowPairBits s
  | .setRowAddress => Sys2Proof.Machine.execSetRowAddress s
  | .enableLatch => Sys2Proof.Machine.execEnableLatch s
  | .start => Sys2Proof.Machine.execStart s

end Sys2Proof.Machine
end

