-- ==== Sys2Proof/Machine/Step.lean ====
section
/-! DEFINITION. One step of the system: find what it performs (`fetch`), decode it, execute it. -/

namespace Sys2Proof.Machine

/-- One step. A code word that names nothing is refused by name (R104). -/
def step (s : State) : Host.Outcome State Fault Refusal :=
  match fetch s with
  | (.word w, t) =>
    match decode w with
    | .ok i => exec i (monitorForeign w t)
    | .error e => .refused (.undecodable e)
  | (.write a v, t) => hostWrite Params.chip a v t

/-- The state whose next step runs the instruction of a table word (log 5); a number that is no code word of the width
changes nothing. -/
def State.withFetchWord (s : State) (nbits w : Nat) : State :=
  match tableWord nbits w with
  | some cw => placeWord cw s
  | none => s

end Sys2Proof.Machine
end

