-- ==== Sys2Proof/Machine/Sink.lean ====
section
/-! DEFINITION. What the panel shows: the row-address decoder (R204) and the visibility function (R205), views of the
state. They are written for the default parameters. -/

namespace Sys2Proof.Machine

/-- `SEL[j]` (R204): the decoder's one-hot vector. -/
def selected (s : State) (j : Nat) : Bool := j == (addr s).toNat

/-- The bit of `OUT` that drives the LED of row `r`, column `c`, channel `ch` when its row is selected (R205). -/
def ledBit (r c : Nat) (ch : Channel) : Nat := 191 - (96 * (r / 16) + 32 * channelNum ch + c)

/-- `lit(r, c, ch)` (R205). -/
def lit (s : State) (r c : Nat) (ch : Channel) : Bool := r % 16 == (addr s).toNat && s.out.getLsbD (ledBit r c ch)

end Sys2Proof.Machine
end

