-- ==== Sys2Proof/Machine/Trace.lean ====
section
/-! DEFINITION. The macros of R105 as lists of pin events, the serial frame (R94) and the closed form of a refresh (R106,
R107, R178), as functions of the parameters and of a frame. -/

namespace Sys2Proof.Machine

/-- A frame: `FBBit(row, column, channel)` (R62). "A model takes the frame buffer as a function" (R67). -/
abbrev Frame := Nat → Nat → Channel → Bool

/-- The frame a memory holds; a cell that holds no value is never used where a statement demands `Memory.complete`. -/
def Memory.frame (m : Memory) : Frame := fun r col ch => (m.bit (32 * r + col) ch).getD false

/-- The physical row of index `i` and half `h` (R22), with the half that `PAIR_ORDER` sends (D2). -/
def rowOf (c : Config) (i h : Nat) : Nat :=
  match c.pairOrder with
  | .lowFirst => i + 16 * h
  | .highFirst => i + 16 * (1 - h)

/-- The column sent as number `n` of its channel (R96, D4). -/
def colOf (c : Config) (n : Nat) : Nat :=
  match c.colOrder with
  | .ascending => n
  | .descending => 31 - n

/-- The channel of a number (R23). -/
def channelOf : Nat → Channel
  | 0 => .blue | 1 => .green | _ => .red

/-- Bit `b` of the serial frame of index `i` (R94, R98). -/
def serialBit (c : Config) (f : Frame) (i b : Nat) : Bool :=
  match c.nesting with
  | .rowChannelColumn => f (rowOf c i (b / 96)) (colOf c (b % 32)) (channelOf (b % 96 / 32))
  | .channelRowColumn => f (rowOf c i (b % 64 / 32)) (colOf c (b % 32)) (channelOf (b / 64))

/-- The index of the `n`-th row cycle (R21, D14). -/
def indexOf (c : Config) (n : Nat) : Nat :=
  match c.indexOrder with
  | .ascending => n
  | .descending => 15 - n

/-! ## Macros (R105) -/

/-- `WR p, v`. -/
def wr (p : Pin) (v : Bool) : List PinEvent := [⟨v, p⟩]

/-- `PULSE` (R151). -/
def pulse : List PinEvent := [⟨false, .clk⟩, ⟨true, .clk⟩]

/-- `SHIFTBIT v` (R150). -/
def shiftBit (v : Bool) : List PinEvent := wr .data v ++ pulse

/-- `SHIFTCH r, ch` (R152). -/
def shiftCh (c : Config) (f : Frame) (r : Nat) (ch : Channel) : List PinEvent :=
  (List.range 32).flatMap fun n => shiftBit (f r (colOf c n) ch)

/-- `SHIFTROW r` (R153). -/
def shiftRow (c : Config) (f : Frame) (r : Nat) : List PinEvent :=
  shiftCh c f r .blue ++ shiftCh c f r .green ++ shiftCh c f r .red

/-- One channel of both rows of a pair, for `NESTING = channel_row_column` (D3). -/
def shiftBoth (c : Config) (f : Frame) (i : Nat) (ch : Channel) : List PinEvent :=
  shiftCh c f (rowOf c i 0) ch ++ shiftCh c f (rowOf c i 1) ch

/-- `SHIFTPAIR i` (R154). -/
def shiftPair (c : Config) (f : Frame) (i : Nat) : List PinEvent :=
  match c.nesting with
  | .rowChannelColumn => shiftRow c f (rowOf c i 0) ++ shiftRow c f (rowOf c i 1)
  | .channelRowColumn => shiftBoth c f i .blue ++ shiftBoth c f i .green ++ shiftBoth c f i .red

/-- `LATOFF`. -/
def latOff (c : Config) : List PinEvent := wr .lat (!c.latEnableLevel)

/-- `SETADDR i` (R173). -/
def setAddr (i : Nat) : List PinEvent :=
  wr .a8 (i.testBit 3) ++ wr .a4 (i.testBit 2) ++ wr .a2 (i.testBit 1) ++ wr .a1 (i.testBit 0)

/-- `LATON`. -/
def latOn (c : Config) : List PinEvent := wr .lat c.latEnableLevel

/-- `ROWCYCLE i` (R176). -/
def rowCycle (c : Config) (f : Frame) (i : Nat) : List PinEvent :=
  latOff c ++ shiftPair c f i ++ setAddr i ++ latOn c

/-- `DRIVE` (R177). -/
def drive (c : Config) (f : Frame) : List PinEvent :=
  (List.range 16).flatMap fun n => rowCycle c f (indexOf c n)

/-! ## Closed form -/

/-- The event at offset `k` of the row cycle of index `i` (R106, R178). -/
def cycleEvent (c : Config) (f : Frame) (i k : Nat) : PinEvent :=
  if k = 0 then ⟨!c.latEnableLevel, .lat⟩
  else if k ≤ 576 then
    match (k - 1) % 3 with
    | 0 => ⟨serialBit c f i ((k - 1) / 3), .data⟩
    | 1 => ⟨false, .clk⟩
    | _ => ⟨true, .clk⟩
  else if k ≤ 580 then ⟨i.testBit (3 - (k - 577)), addrPin (BitVec.ofNat 2 (k - 577))⟩
  else ⟨c.latEnableLevel, .lat⟩

/-- `event(K, FB)` (R178): the event number `K` of a refresh. -/
def refreshEvent (c : Config) (f : Frame) (K : Nat) : PinEvent := cycleEvent c f (indexOf c (K / 582)) (K % 582)

/-- The levels on the pins after a list of events: "the level last written" (R28). -/
def replayPins (r : PinReg) (es : List PinEvent) : PinReg := es.foldl (fun r e => setLevel r e.pin e.level) r

end Sys2Proof.Machine
end

