-- ==== Sys2Proof/Safety.lean ====
section
/-! DEFINITION. What counts as a safe run, in the terms the statements use: the invariants of the machine, and when a run
has properly ended. -/

namespace Sys2Proof.Machine

/-- Every cell of the frame buffer holds a value: what R261 demands before the first `START`. -/
abbrev Memory.complete (m : Memory) : Prop := ∀ a, a < 1024 → m.read a ≠ none

/-- The reachable values (R38), with `BUSY` (R30) and the canonical form of the frame buffer. The ranges of `ST`, `CH` and
`PH` are in their types. -/
abbrev State.Inv (s : State) : Prop :=
  Memory.wf s.fb = true ∧
  (s.busy = true ↔ s.st ≠ .idle) ∧
  (s.st ≠ .shiftRowPairBits → s.half = 0#1 ∧ s.ch = .blue ∧ s.col = 0#5 ∧ s.ph = .data) ∧
  (s.st ≠ .setRowAddress → s.ab = 0#2) ∧
  (s.st = .idle → s.idx = 0#4)

/-- Between DisableLatch and EnableLatch the latch is disabled (R101, R266), unless the monitor has marked a fault. -/
abbrev State.LatchInv (s : State) : Prop :=
  s.fault = none → (s.st = .shiftRowPairBits ∨ s.st = .setRowAddress ∨ s.st = .enableLatch) →
    level s.pin .lat = false

/-- The pins hold the levels last written since reset (R28, R36). -/
abbrev State.PinsFollowTrace (s : State) : Prop := s.pin = replayPins Params.chip.pinReset s.trace

/-- A proper end of a run (R182, R233): back in Idle, not busy, and never faulted. -/
abbrev State.ProperEnd (s : State) : Prop := s.st = .idle ∧ s.busy = false ∧ s.fault = none

/-- The sequencer's registers agree. -/
abbrev State.SameControl (s t : State) : Prop :=
  s.st = t.st ∧ s.idx = t.idx ∧ s.half = t.half ∧ s.ch = t.ch ∧ s.col = t.col ∧ s.ph = t.ph ∧ s.ab = t.ab

/-- Equal but for the sink: its two registers, its fault mark and the model's draws. -/
abbrev State.SameButSink (s t : State) : Prop :=
  s.SameControl t ∧ s.pin = t.pin ∧ s.busy = t.busy ∧ s.fb = t.fb ∧ s.trace = t.trace ∧ s.inputs = t.inputs

/-- What a pin event leaves of `s` when the pins become `r` and, if `OUT` has a meaning, `OUT` becomes `o` (R130, R209):
the event is the last of the trace, and every other field is as before. -/
def State.afterEvent (s : State) (e : PinEvent) (r : PinReg) (o : Chain) : State :=
  { s with
    pin := r
    trace := s.trace ++ [e]
    out := if s.fault = none then o else Config.freeOut s.free
    free := if s.fault = none then s.free else s.free + 1 }

end Sys2Proof.Machine
end

