-- ==== Sys2Proof/Certificates/Slice0/Obligations.lean ====
section
/-! DEFINITION. The statements about the machine, from the numbered rules of spec/. -/

open Sys2Proof Sys2Proof.Machine

/-! ## Reset and encodings -/

/-- What reset leaves (R37, R40, R260). The spec decided these values; `SR` and `OUT` are the model's free values (log 1), no cell
holds a value (log 2), and `inputs` and `free` are the model's own fields (log 4, log 3). Nothing happens until a move
comes: the block waits in Idle, and that this waiting is a step which answers the same state is the model's choice
(log 11). -/
def Obligations.ResetState : Prop :=
  State.reset.st = .idle ∧ State.reset.idx = 0#4 ∧ State.reset.half = 0#1 ∧ State.reset.ch = .blue ∧
  State.reset.col = 0#5 ∧ State.reset.ph = .data ∧ State.reset.ab = 0#2 ∧ State.reset.busy = false ∧
  State.reset.pin = 0#7 ∧ State.reset.fault = none ∧ State.reset.trace = [] ∧ addr State.reset = 0#4 ∧
  (∀ a, State.reset.fb.read a = none) ∧ step State.reset = .next State.reset

/-- Reset satisfies every invariant stated below. -/
def Obligations.ResetMeetsInvariants : Prop :=
  State.reset.Inv ∧ State.reset.LatchInv ∧ State.reset.PinsFollowTrace

/-- The words of the opcode table, written out from the tables of R102, R103 and R109, and the words that name nothing
(R104). -/
def Obligations.TableWordsDecode : Prop :=
  decode (.event 0b0000#4) = .ok .clrData ∧ decode (.event 0b1000#4) = .ok .setData ∧
  decode (.event 0b0001#4) = .ok .clrClk ∧ decode (.event 0b1001#4) = .ok .setClk ∧
  decode (.event 0b0010#4) = .ok .clrLat ∧ decode (.event 0b1010#4) = .ok .setLat ∧
  decode (.event 0b0011#4) = .ok .clrA8 ∧ decode (.event 0b1011#4) = .ok .setA8 ∧
  decode (.event 0b0100#4) = .ok .clrA4 ∧ decode (.event 0b1100#4) = .ok .setA4 ∧
  decode (.event 0b0101#4) = .ok .clrA2 ∧ decode (.event 0b1101#4) = .ok .setA2 ∧
  decode (.event 0b0110#4) = .ok .clrA1 ∧ decode (.event 0b1110#4) = .ok .setA1 ∧
  decode (.state 0b000#3) = .ok .idle ∧ decode (.state 0b001#3) = .ok .disableLatch ∧
  decode (.state 0b010#3) = .ok .shiftRowPairBits ∧ decode (.state 0b011#3) = .ok .setRowAddress ∧
  decode (.state 0b100#3) = .ok .enableLatch ∧ decode (.cmd 1#1) = .ok .start ∧
  decode (.event 0b0111#4) = .error (.reservedPin false) ∧ decode (.event 0b1111#4) = .error (.reservedPin true) ∧
  (∀ w : BitVec 3, 4 < w.toNat → decode (.state w) = .error (.unusedStateCode w)) ∧
  decode (.cmd 0#1) = .error .noRequest

/-- Encoding and decoding agree, both ways; a word is refused exactly when it is ill-formed (R104). -/
def Obligations.DecodeEncodeAgree : Prop :=
  (∀ i : Instr, decode (encode i) = .ok i) ∧
  (∀ (w : CodeWord) (i : Instr), decode w = .ok i → w = encode i) ∧
  (∀ w : CodeWord, w.wellFormed = false ↔ ∃ r, decode w = .error r)

/-- A trace written as event words, one at a time, decodes to itself, and what decodes was written so (R102, R108). That a
list with a reserved word decodes to no trace at all is the model's choice (log 17). -/
def Obligations.TraceWordsRoundTrip : Prop :=
  ∀ (es : List PinEvent) (ws : List (BitVec 4)), decodeTrace ws = .ok es ↔ ws = es.map PinEvent.word

/-- The frame-buffer address is `{HALF, IDX, COL}`, that is `32*(16*HALF + IDX) + COL`, and every cell has exactly one
such address (R91, R60). -/
def Obligations.CellAddressFields : Prop :=
  (∀ (idx : BitVec 4) (half : BitVec 1) (col : BitVec 5),
    cellAddr Params.chip idx half col = half ++ idx ++ col ∧
    (cellAddr Params.chip idx half col).toNat = 32 * (16 * half.toNat + idx.toNat) + col.toNat) ∧
  ∀ a : CellAddr, ∃ idx half col, cellAddr Params.chip idx half col = a ∧
    ∀ idx' half' col', cellAddr Params.chip idx' half' col' = a → idx' = idx ∧ half' = half ∧ col' = col

/-- `ADDR` is a view of `PIN` (R33), 4 bits of weights 8, 4, 2, 1. -/
def Obligations.AddrIsViewOfPins : Prop :=
  ∀ s : State,
    (addr s).toNat = 8 * (level s.pin .a8).toNat + 4 * (level s.pin .a4).toNat + 2 * (level s.pin .a2).toNat
      + (level s.pin .a1).toNat ∧
    addr s = BitVec.ofBool (s.pin.getLsbD 3) ++ BitVec.ofBool (s.pin.getLsbD 4) ++ BitVec.ofBool (s.pin.getLsbD 5)
      ++ BitVec.ofBool (s.pin.getLsbD 6)

/-! ## The frame buffer -/

/-- A read after a write of one cell gives the written value, every other cell reads as before, and the canonical form
is kept (R60, R62). -/
def Obligations.MemoryReadWrite : Prop :=
  ∀ (m : Memory) (a : CellAddr) (v : Pixel),
    (m.write a.toNat v).read a.toNat = some v ∧
    (∀ b, b ≠ a.toNat → (m.write a.toNat v).read b = m.read b) ∧
    (m.wf = true → (m.write a.toNat v).wf = true)

/-- The block never writes the frame buffer (R63): no instruction changes any cell. A step changes one only by a write of
the outside, and only while `BUSY` is 0: that clause is R71 and R240 under the default `refused` of D21, with the forced
moves of log 4. -/
def Obligations.BlockNeverWritesFrameBuffer : Prop :=
  (∀ (i : Instr) (s t : State), exec i s = .next t → ∀ a, t.fb.read a = s.fb.read a) ∧
  (∀ s t : State, step s = .next t →
    t.fb = s.fb ∨ ∃ a v rest, t.fb = s.fb.write a.toNat v ∧
      (s.inputs = .host (.write a v) :: rest ∧ s.busy = false ∨ s.inputs = .forced (.write a v) :: rest ∧ s.busy = false))

/-- A write of the host is performed while `BUSY = 0` and changes only its cell and the list of inputs; one that lands
while `BUSY = 1` is refused (R71, R240: `FB_WRITE_WHILE_BUSY = refused`). -/
def Obligations.HostWriteOnlyWhenIdle : Prop :=
  ∀ (s : State) (a : CellAddr) (v : Pixel) (rest : List Input),
    (s.busy = false → s.inputs = .host (.write a v) :: rest ∨ s.inputs = .forced (.write a v) :: rest →
      step s = .next { s with fb := s.fb.write a.toNat v, inputs := rest }) ∧
    (s.busy = true → s.inputs = .forced (.write a v) :: rest → step s = .refused .writeWhileBusy)

/-- Under the other value of the parameter, `torn` (D21, R71), the write lands in any state, busy or not: its cell is
written and nothing else changes (log 16). -/
def Obligations.TornWriteLands : Prop :=
  ∀ (s : State) (a : CellAddr) (v : Pixel),
    hostWrite { Params.chip with fbWriteWhileBusy := .torn } a v s = .next { s with fb := s.fb.write a.toNat v }

/-! ## The fourteen pin operations -/

/-- What all fourteen share (R130): every pin operation answers a next state, whatever the state; its pin gets the
level, the other six keep theirs, one event is appended, the frame buffer stays, and no register of the sequencer
changes; a write of the level the pin already has makes no edge at the sink. -/
def Obligations.PinOperationsShare : Prop :=
  ∀ (e : PinEvent) (s : State), ∃ t, exec e.instr s = .next t ∧
    level t.pin e.pin = e.level ∧ (∀ q, q ≠ e.pin → level t.pin q = level s.pin q) ∧
    t.trace = s.trace ++ [e] ∧ s.SameControl t ∧ t.busy = s.busy ∧ t.fb = s.fb ∧ t.inputs = s.inputs ∧
    (level s.pin e.pin = e.level → t.pin = s.pin ∧ t.sr = s.sr ∧ t.fault = s.fault ∧ (s.fault = none → t.out = s.out))

/-- `SET DATA` and `CLR DATA` (R131, R132): the level, no effect on the sink; the data step issues one of them. -/
def Obligations.DataLineOperations : Prop :=
  ∀ s : State,
    exec .setData s = .next (s.afterEvent ⟨true, .data⟩ (s.pin ||| 0b0000001#7) s.out) ∧
    exec .clrData s = .next (s.afterEvent ⟨false, .data⟩ (s.pin &&& 0b1111110#7) s.out) ∧
    decode (.event 0x8#4) = .ok .setData ∧ decode (.event 0x0#4) = .ok .clrData

/-- `CLR CLK` does nothing to the sink; `SET CLK` that finds 1 makes no edge; `SET CLK` that finds 0 shifts the chain by
`DATA`, with the latch disabled and no more (R133, R134). -/
def Obligations.ClockLineOperations : Prop :=
  ∀ s : State,
    exec .clrClk s = .next (s.afterEvent ⟨false, .clk⟩ (s.pin &&& 0b1111101#7) s.out) ∧
    (level s.pin .clk = true →
      exec .setClk s = .next (s.afterEvent ⟨true, .clk⟩ (s.pin ||| 0b0000010#7) s.out)) ∧
    (level s.pin .clk = false → level s.pin .lat = false →
      exec .setClk s = .next { s.afterEvent ⟨true, .clk⟩ (s.pin ||| 0b0000010#7) s.out with
        sr := (s.sr.extractLsb' 0 191).concat (level s.pin .data) }) ∧
    decode (.event 0x1#4) = .ok .clrClk ∧ decode (.event 0x9#4) = .ok .setClk

/-- A rising edge of `CLK` while `LAT` is enabled raises `ProtocolFault(shift_while_latched)` (R209(a), U1): `FAULT` is
set and keeps its first reason. The chain still shifts, as R201 says of every rising edge, and `OUT` becomes a free
value, which is the model's form of "stops giving `OUT` a meaning" (log 3). -/
def Obligations.ShiftWhileLatchedFaults : Prop :=
  ∀ s : State, level s.pin .clk = false → level s.pin .lat = true →
    exec .setClk s = .next { s with
      pin := s.pin ||| 0b0000010#7
      trace := s.trace ++ [⟨true, .clk⟩]
      sr := (s.sr.extractLsb' 0 191).concat (level s.pin .data)
      fault := some (s.fault.getD .shiftWhileLatched)
      out := Config.freeOut s.free
      free := s.free + 1 }

/-- `CLR LAT` transfers nothing; `SET LAT` transfers the chain only on the disable-to-enable transition (R135, R136). -/
def Obligations.LatchLineOperations : Prop :=
  ∀ s : State,
    exec .clrLat s = .next (s.afterEvent ⟨false, .lat⟩ (s.pin &&& 0b1111011#7) s.out) ∧
    (level s.pin .lat = true →
      exec .setLat s = .next (s.afterEvent ⟨true, .lat⟩ (s.pin ||| 0b0000100#7) s.out)) ∧
    (level s.pin .lat = false →
      exec .setLat s = .next (s.afterEvent ⟨true, .lat⟩ (s.pin ||| 0b0000100#7) s.sr)) ∧
    decode (.event 0x2#4) = .ok .clrLat ∧ decode (.event 0xA#4) = .ok .setLat

/-- The eight operations on the address lines write their line and nothing else of the pins; the sink's registers stay
(R137 to R144). -/
def Obligations.AddressLineOperations : Prop :=
  ∀ s : State,
    exec .setA8 s = .next (s.afterEvent ⟨true, .a8⟩ (s.pin ||| 0b0001000#7) s.out) ∧
    exec .clrA8 s = .next (s.afterEvent ⟨false, .a8⟩ (s.pin &&& 0b1110111#7) s.out) ∧
    exec .setA4 s = .next (s.afterEvent ⟨true, .a4⟩ (s.pin ||| 0b0010000#7) s.out) ∧
    exec .clrA4 s = .next (s.afterEvent ⟨false, .a4⟩ (s.pin &&& 0b1101111#7) s.out) ∧
    exec .setA2 s = .next (s.afterEvent ⟨true, .a2⟩ (s.pin ||| 0b0100000#7) s.out) ∧
    exec .clrA2 s = .next (s.afterEvent ⟨false, .a2⟩ (s.pin &&& 0b1011111#7) s.out) ∧
    exec .setA1 s = .next (s.afterEvent ⟨true, .a1⟩ (s.pin ||| 0b1000000#7) s.out) ∧
    exec .clrA1 s = .next (s.afterEvent ⟨false, .a1⟩ (s.pin &&& 0b0111111#7) s.out)

/-! ## Start and the five states -/

/-- Idle holds: it emits nothing, changes nothing, any number of steps without a move leaves the machine as it is, only
`START` lifts the hold, and `BUSY` is 0 (R171; the last in the states that meet the invariant). That IDLE answers a next
state, the same one, is the model's choice (log 11): R171 says that "The sequencer has no step in Idle". -/
def Obligations.IdleHolds : Prop :=
  (∀ s : State, exec .idle s = .next s) ∧
  (∀ (n : Nat) (s : State), s.st = .idle → s.inputs = [] → core.run n s = .next s) ∧
  (∀ s t : State, s.st = .idle → step s = .next t → t.st ≠ .idle →
    ∃ rest, s.inputs = .host (.cmd 1#1) :: rest ∨ s.inputs = .forced (.cmd 1#1) :: rest) ∧
  (∀ s : State, s.Inv → s.st = .idle → s.busy = false)

/-- `START` in Idle (R170): it emits nothing itself, and the next step of the sequencer emits `CLR LAT`. -/
def Obligations.StartBeginsRefresh : Prop :=
  ∀ s : State, s.st = .idle → ∃ t, exec .start s = .next t ∧
    t = { s with idx := 0#4, busy := true, st := .disableLatch } ∧
    (s.inputs = [] → ∃ u, step t = .next u ∧ u.trace = s.trace ++ [⟨false, .lat⟩])

/-- `START` outside Idle is refused: not queued, not ignored, no restart (R183). The host's own moves wait until
`BUSY = 0`, so only a forced one can meet the refusal; forced moves are the model's choice (log 4). -/
def Obligations.StartWhileBusyRefused : Prop :=
  (∀ s : State, s.st ≠ .idle → exec .start s = .refused .startWhileBusy) ∧
  (∀ (s : State) (rest : List Input), s.st ≠ .idle → s.inputs = .forced (.cmd 1#1) :: rest →
    step s = .refused .startWhileBusy)

/-- The step of DisableLatch (R172). That `OUT` is a free value, drawn anew, once `FAULT` is set is the model's choice
(log 3). -/
def Obligations.DisableLatchStep : Prop :=
  ∀ s : State, exec .disableLatch s =
    .next { s.afterEvent ⟨false, .lat⟩ (s.pin &&& 0b1111011#7) s.out with
      half := 0#1, ch := .blue, col := 0#5, ph := .data, st := .shiftRowPairBits }

/-- The data step of ShiftRowPairBits (R155): bit `CH` of the cell at `32*(16*HALF + IDX) + COL` goes to `DATA`. That
`OUT` is a free value, drawn anew, once `FAULT` is set is the model's choice (log 3). -/
def Obligations.DataStepSendsCellBit : Prop :=
  ∀ (s : State) (p : Pixel), s.ph = .data →
    s.fb.read (32 * (16 * s.half.toNat + s.idx.toNat) + s.col.toNat) = some p →
    exec .shiftRowPairBits s = .next
      { (if p.getLsbD (channelNum s.ch) then s.afterEvent ⟨true, .data⟩ (s.pin ||| 0b0000001#7) s.out
         else s.afterEvent ⟨false, .data⟩ (s.pin &&& 0b1111110#7) s.out) with ph := .clkLow }

/-- A data step that reads a cell holding no value faults (R261, U12). -/
def Obligations.UnwrittenCellFaults : Prop :=
  ∀ s : State, s.ph = .data →
    s.fb.read (32 * (16 * s.half.toNat + s.idx.toNat) + s.col.toNat) = none →
    exec .shiftRowPairBits s = .fault (.unwrittenCell (s.half ++ s.idx ++ s.col))

/-- The clock-low step of ShiftRowPairBits (R156). That `OUT` is a free value, drawn anew, once `FAULT` is set is the
model's choice (log 3). -/
def Obligations.ClockLowStep : Prop :=
  ∀ s : State, s.ph = .clkLow → exec .shiftRowPairBits s =
    .next { s.afterEvent ⟨false, .clk⟩ (s.pin &&& 0b1111101#7) s.out with ph := .clkHigh }

/-- The clock-high step of ShiftRowPairBits (R157): `SET CLK`, and the counters. -/
def Obligations.ClockHighStep : Prop :=
  ∀ s : State, s.ph = .clkHigh → ∃ t u, exec .setClk s = .next t ∧ exec .shiftRowPairBits s = .next u ∧
    u = { t with
      ph := .data
      col := if s.col.toNat < 31 then s.col + 1#5 else 0#5
      ch := if s.col.toNat < 31 then s.ch
        else if s.ch = .blue then .green else if s.ch = .green then .red else .blue
      half := if s.col.toNat < 31 ∨ s.ch ≠ .red then s.half else if s.half = 0#1 then 1#1 else 0#1
      ab := if s.col.toNat < 31 ∨ s.ch ≠ .red ∨ s.half = 0#1 then s.ab else 0#2
      st := if s.col.toNat < 31 ∨ s.ch ≠ .red ∨ s.half = 0#1 then s.st else .setRowAddress }

/-- One step of SetRowAddress (R173, R174): the line of weight `8 >> AB` gets bit `(IDX div (8 >> AB)) mod 2`. That `OUT`
is a free value, drawn anew, once `FAULT` is set is the model's choice (log 3). -/
def Obligations.SetRowAddressStep : Prop :=
  ∀ s : State, exec .setRowAddress s = .next
    { s.afterEvent
        ⟨decide ((s.idx.toNat / (8 >>> s.ab.toNat)) % 2 = 1),
          if s.ab = 0#2 then .a8 else if s.ab = 1#2 then .a4 else if s.ab = 2#2 then .a2 else .a1⟩
        (if (s.idx.toNat / (8 >>> s.ab.toNat)) % 2 = 1 then s.pin ||| (8#7 <<< s.ab.toNat)
          else s.pin &&& ~~~(8#7 <<< s.ab.toNat))
        s.out with
      ab := if s.ab.toNat < 3 then s.ab + 1#2 else 0#2
      st := if s.ab.toNat < 3 then s.st else .enableLatch }

/-- The step of EnableLatch (R175): `SET LAT`, then the next row index or Idle. -/
def Obligations.EnableLatchStep : Prop :=
  ∀ s : State, ∃ t u, exec .setLat s = .next t ∧ exec .enableLatch s = .next u ∧
    u = if s.idx.toNat < 15 then { t with idx := s.idx + 1#4, st := .disableLatch }
      else { t with idx := 0#4, busy := false, st := .idle }

/-! ## Whole-machine rules -/

/-- No instruction stops but for two named reasons (R230: the block raises no exception): the data step on a cell that
holds no value, and `START` outside Idle. -/
def Obligations.OnlyTwoStops : Prop :=
  (∀ (i : Instr) (s : State) (r : Fault), exec i s = .fault r ↔
    i = .shiftRowPairBits ∧ s.ph = .data ∧
      s.fb.read (32 * (16 * s.half.toNat + s.idx.toNat) + s.col.toNat) = none ∧
      r = .unwrittenCell (s.half ++ s.idx ++ s.col)) ∧
  (∀ (i : Instr) (s : State) (r : Refusal), exec i s = .refused r ↔
    i = .start ∧ s.st ≠ .idle ∧ r = .startWhileBusy)

/-- The chain changes only by a commit (R201): on a rising edge of `CLK` it shifts by one, with the level of `DATA` in
bit 0, and nothing else ever changes it. -/
def Obligations.ChainShiftsOnlyOnRisingClock : Prop :=
  ∀ s t : State, step s = .next t →
    if level s.pin .clk = false ∧ level t.pin .clk = true then
      t.sr.getLsbD 0 = level s.pin .data ∧ ∀ j, j < 191 → t.sr.getLsbD (j + 1) = s.sr.getLsbD j
    else t.sr = s.sr

/-- The output stage changes only by the transfer on the enable of `LAT`, all 192 bits at once (R203), as long as the
monitor has marked no fault (R209). -/
def Obligations.OutputChangesOnlyOnLatchEnable : Prop :=
  ∀ s t : State, step s = .next t → t.fault = none →
    t.out = if level s.pin .lat = false ∧ level t.pin .lat = true then s.sr else s.out

/-- `FAULT` is sticky: no step clears it or changes its reason (R34). -/
def Obligations.FaultIsSticky : Prop :=
  ∀ (s t : State) (r : ProtocolFault), s.fault = some r → step s = .next t → t.fault = some r

/-- When `FAULT` is set by an instruction: exactly on a rising edge of `CLK` with `LAT` enabled (R209(a)). -/
def Obligations.FaultOnlyOnLatchedShift : Prop :=
  ∀ (i : Instr) (s t : State), exec i s = .next t →
    t.fault = if s.fault = none ∧ level s.pin .clk = false ∧ level t.pin .clk = true ∧ level s.pin .lat = true
      then some .shiftWhileLatched else s.fault

/-- A pin event from outside while `BUSY = 1` raises `ProtocolFault(foreign_pin_write)` (R209(b), U3) before the event
takes effect; the pin and the trace change as R130 says. That an admitted event still takes effect is the model's
choice (log 3). -/
def Obligations.ForeignPinWriteFaults : Prop :=
  ∀ (s : State) (e : PinEvent) (rest : List Input), s.busy = true → s.inputs = .foreign e.word :: rest →
    ∃ t, step s = .next t ∧ t.fault = some (s.fault.getD .foreignPinWrite) ∧
      t.trace = s.trace ++ [e] ∧ level t.pin e.pin = e.level ∧ (∀ q, q ≠ e.pin → level t.pin q = level s.pin q) ∧
      s.SameControl t ∧ t.busy = true ∧ t.fb = s.fb ∧ t.inputs = rest

/-- Every arrow of the state machine, and no other (R179): no transition depends on the frame buffer or on a pin; the one
arrow out of Idle is taken on `START`. -/
def Obligations.StateTransitions : Prop :=
  (∀ s t : State, s.st = .idle → exec .start s = .next t → t.st = .disableLatch) ∧
  (∀ s t : State, exec s.st.instr s = .next t → t.st = match s.st with
      | .idle => .idle
      | .disableLatch => .shiftRowPairBits
      | .shiftRowPairBits =>
        if s.ph = .clkHigh ∧ s.half = 1#1 ∧ s.ch = .red ∧ s.col = 31#5 then .setRowAddress else .shiftRowPairBits
      | .setRowAddress => if s.ab.toNat < 3 then .setRowAddress else .enableLatch
      | .enableLatch => if s.idx.toNat < 15 then .disableLatch else .idle)

/-- Nothing the sink does or holds can influence the sequencer (R200, R210): two states that differ only in the sink's
registers, its fault mark and the draws step to states that differ only there, or stop alike. -/
def Obligations.SinkCannotInfluenceSequencer : Prop :=
  ∀ s s' : State, s.SameButSink s' →
    (∀ t, step s = .next t → ∃ t', step s' = .next t' ∧ t.SameButSink t') ∧
    (∀ r, step s = .fault r → step s' = .fault r) ∧ (∀ r, step s = .refused r → step s' = .refused r)

/-! ## Invariants -/

/-- The reachable values (R38) with the meaning of `BUSY` (R30) and the canonical form of the frame buffer, for every
state, not only reachable ones. -/
def Obligations.StepKeepsReachableValues : Prop :=
  ∀ s t : State, s.Inv → step s = .next t → t.Inv

/-- From DisableLatch to EnableLatch the latch is disabled (R101, R266). -/
def Obligations.StepKeepsLatchDisabled : Prop :=
  ∀ s t : State, s.Inv → s.LatchInv → step s = .next t → t.LatchInv

/-- The pins hold the levels last written, and nothing but a pin event writes one (R28, R36, R75). -/
def Obligations.StepKeepsPinsFollowTrace : Prop :=
  ∀ s t : State, s.PinsFollowTrace → step s = .next t → t.PinsFollowTrace

/-- The sequencer never triggers the monitor (R209, R233): left to itself from a state that meets the invariants, it
never sets `FAULT`. -/
def Obligations.SequencerNeverFaults : Prop :=
  ∀ (n : Nat) (s t : State), s.Inv → s.LatchInv → s.fault = none → s.inputs = [] → core.run n s = .next t →
    t.fault = none

/-- While the latch is disabled and the address is not yet being written, what the panel shows does not change (R203,
R208, R266). -/
def Obligations.ShiftingIsInvisible : Prop :=
  ∀ s t : State, s.fault = none → s.LatchInv → s.inputs = [] →
    (s.st = .disableLatch ∨ s.st = .shiftRowPairBits) → step s = .next t →
    ∀ r c ch, lit t r c ch = lit s r c ch

/-! ## Steps -/

/-- Without a move, and while a move of the host waits for `BUSY = 0` (R236, R240), a step executes the operation of the
state that `ST` names; a request or event word that is taken is decoded, and the step executes what it names on the
state without that input, an event word that lands while busy being marked first; a request line at 0 does nothing, so
the sequencer has the step (R109); a word that names nothing is refused (R104). -/
def Obligations.StepRunsDecodedWord : Prop :=
  ∀ s : State,
    decode (.state s.st.code) = .ok s.st.instr ∧
    (s.inputs = [] → step s = exec s.st.instr s) ∧
    (∀ m rest, s.inputs = .host m :: rest → s.busy = true → step s = exec s.st.instr s) ∧
    (∀ rest, s.inputs = .host (.cmd 0#1) :: rest ∧ s.busy = false ∨ s.inputs = .forced (.cmd 0#1) :: rest →
      step s = exec s.st.instr { s with inputs := rest }) ∧
    (∀ rest, s.inputs = .host (.cmd 1#1) :: rest ∧ s.busy = false ∨ s.inputs = .forced (.cmd 1#1) :: rest →
      step s = exec .start { s with inputs := rest }) ∧
    (∀ w i rest, decode (.event w) = .ok i → s.busy = false → s.inputs = .foreign w :: rest →
      step s = exec i { s with inputs := rest }) ∧
    (∀ w i rest, decode (.event w) = .ok i → s.busy = true → s.inputs = .foreign w :: rest →
      step s = exec i (raiseProtocol .foreignPinWrite { s with inputs := rest })) ∧
    (∀ w r rest, decode (.event w) = .error r → s.inputs = .foreign w :: rest →
      step s = .refused (.undecodable r))

/-- What the host can do at the interface (R240): in Idle none of its moves touches a pin, the sink or the trace; while
`BUSY = 1` none acts at all, the sequencer has the step and the move is still to come; and what the host reads is 1
exactly during a refresh. -/
def Obligations.HostMovesNeverTouchPins : Prop :=
  (∀ (s t : State) (m : Move) (rest : List Input), s.busy = false → s.st = .idle → s.inputs = .host m :: rest →
    step s = .next t →
    t.pin = s.pin ∧ t.trace = s.trace ∧ t.sr = s.sr ∧ t.out = s.out ∧ t.fault = s.fault ∧ t.inputs = rest) ∧
  (∀ (s t : State) (m : Move) (rest : List Input), s.busy = true → s.inputs = .host m :: rest → step s = .next t →
    exec s.st.instr s = .next t ∧ t.inputs = s.inputs ∧ t.fb = s.fb) ∧
  (∀ s : State, s.Inv → (hostRead s = true ↔ s.st ≠ .idle))

/-- The very next step runs the instruction of a placed table word (log 5). -/
def Obligations.PlacedWordRunsNext : Prop :=
  ∀ (s : State) (nbits w : Nat) (i : Instr), decodeTableWord nbits w = some i →
    ∃ t, step (s.withFetchWord nbits w) = exec i t ∧ t.inputs = s.inputs ∧ t.pin = s.pin ∧ t.fb = s.fb ∧
      t.idx = s.idx ∧ t.half = s.half ∧ t.ch = s.ch ∧ t.col = s.col ∧ t.ph = s.ph ∧ t.ab = s.ab ∧ t.sr = s.sr ∧
      t.out = s.out ∧ t.fault = s.fault ∧ t.trace = s.trace ∧ t.free = s.free ∧ (t.busy = true ↔ t.st ≠ .idle) ∧
      (∀ q : SeqState, i = q.instr → t.st = q) ∧ (i = .start → t.st = .idle)

/-- `SHIFTBIT` (R150) in three steps: the data write, then the pulse, which commits the level just written (R202,
R265). -/
def Obligations.ShiftBitInThreeSteps : Prop :=
  ∀ (s : State) (p : Pixel), s.st = .shiftRowPairBits → s.ph = .data → s.inputs = [] → s.fault = none →
    level s.pin .lat = false →
    s.fb.read (32 * (16 * s.half.toNat + s.idx.toNat) + s.col.toNat) = some p →
    ∃ t, core.run 3 s = .next t ∧
      t.trace = s.trace ++ shiftBit (p.getLsbD (channelNum s.ch)) ∧
      t.sr = (s.sr.extractLsb' 0 191).concat (p.getLsbD (channelNum s.ch)) ∧
      level t.pin .data = p.getLsbD (channelNum s.ch) ∧ level t.pin .clk = true ∧ t.out = s.out ∧ t.fault = none ∧
      t.ph = .data

/-- The address-change window (R173, R267, R268): after `n` of the four writes the `n` upper address lines hold the new
index and the others the old one; the output stage holds; after the fourth `ADDR = IDX`. -/
def Obligations.AddressLinesChangeMsbFirst : Prop :=
  ∀ (s : State) (n : Nat), s.st = .setRowAddress → s.ab = 0#2 → s.inputs = [] → s.fault = none → n ≤ 4 →
    ∃ t, core.run n s = .next t ∧
      (∀ j, j < 4 → (addr t).getLsbD (3 - j) = if j < n then s.idx.getLsbD (3 - j) else (addr s).getLsbD (3 - j)) ∧
      t.out = s.out ∧ t.sr = s.sr ∧ t.idx = s.idx ∧
      (n = 4 → addr t = s.idx ∧ t.st = .enableLatch ∧
        t.trace = s.trace ++ setAddr s.idx.toNat)

/-! ## What the panel shows -/

/-- The decoder selects exactly one of the sixteen indices, the one on the address lines, and with it the two physical
rows `ADDR` and `ADDR + 16` (R204). -/
def Obligations.DecoderSelectsOne : Prop :=
  ∀ s : State, (∀ j, j < 16 → (selected s j = true ↔ j = (addr s).toNat)) ∧
    (∃ j, j < 16 ∧ selected s j = true ∧ ∀ k, selected s k = true → k = j) ∧
    ∀ r, r < 32 → (selected s (r % 16) = true ↔ r = (addr s).toNat ∨ r = (addr s).toNat + 16)

/-- What is visible (R205), and that the rows which are not `ADDR` or `ADDR + 16` are dark. -/
def Obligations.LitFollowsOutputStage : Prop :=
  ∀ (s : State) (r c : Nat) (ch : Channel), r < 32 → c < 32 →
    (lit s r c ch = true ↔ r % 16 = (addr s).toNat ∧
      s.out.getLsbD (191 - (96 * (r / 16) + 32 * channelNum ch + c)) = true) ∧
    (r ≠ (addr s).toNat → r ≠ (addr s).toNat + 16 → lit s r c ch = false)

/-! ## The refresh -/

/-- `K` (R27) and the sequencer's registers determine each other: in a busy state that meets the invariant `K` is below
9312, states with the same `K` have the same registers, and every `K` is the position of one. -/
def Obligations.PositionDeterminesRegisters : Prop :=
  (∀ s : State, s.Inv → s.busy = true → position s < 9312) ∧
  (∀ s t : State, s.Inv → t.Inv → s.busy = true → t.busy = true → position s = position t → s.SameControl t) ∧
  (∀ K, K < 9312 → ∃ s : State, s.Inv ∧ s.busy = true ∧ position s = K)

/-- One step of a refresh (R27, R178): from position `K` a step emits `event(K, FB)` and goes to position `K + 1`, or
to Idle with `BUSY = 0` after the last. -/
def Obligations.StepEmitsEventAtPosition : Prop :=
  ∀ s : State, s.Inv → s.busy = true → s.inputs = [] → s.fb.complete →
    ∃ t, step s = .next t ∧ t.trace = s.trace ++ [refreshEvent Params.chip s.fb.frame (position s)] ∧
      t.fb = s.fb ∧ t.inputs = [] ∧
      if position s = 9311 then t.st = .idle ∧ t.busy = false
      else t.busy = true ∧ position t = position s + 1

/-- The stepped refresh is the closed form (R177, R178, R184, R243): `START` in Idle with every cell written and nothing
else to come, then exactly 9312 steps, append `[event(0, FB), ..., event(9311, FB)]`, whatever the pins and the sink
held; `BUSY` is 1 after each of the steps before the last and 0 after it. -/
def Obligations.RefreshTraceIsClosedForm : Prop :=
  ∀ s : State, s.st = .idle → s.busy = false → s.inputs = [.host (.cmd 1#1)] → s.fb.complete →
    (∃ t, core.run (1 + 9312) s = .next t ∧
      t.trace = s.trace ++ (List.range 9312).map (refreshEvent Params.chip s.fb.frame) ∧
      t.st = .idle ∧ t.busy = false ∧ t.idx = 0#4 ∧ t.half = 0#1 ∧ t.ch = .blue ∧ t.col = 0#5 ∧ t.ph = .data ∧
      t.ab = 0#2 ∧ t.fb = s.fb ∧ t.inputs = []) ∧
    (∀ n, n < 9312 → ∃ u, core.run (1 + n) s = .next u ∧ u.busy = true ∧
      u.trace = s.trace ++ (List.range n).map (refreshEvent Params.chip s.fb.frame))

/-- The pins in Idle after a refresh, the sequencer's registers as at reset (R181), and, where the monitor had marked no
fault before, a proper end (R182) with the panel showing row pair 15. -/
def Obligations.PinsAfterRefresh : Prop :=
  ∀ (s : State) (p : Pixel), s.st = .idle → s.busy = false → s.inputs = [.host (.cmd 1#1)] → s.fb.complete →
    s.fb.read 1023 = some p →
    ∃ t, core.run (1 + 9312) s = .next t ∧ level t.pin .data = p.getLsbD 2 ∧ level t.pin .clk = true ∧
      level t.pin .lat = true ∧ level t.pin .a8 = true ∧ level t.pin .a4 = true ∧ level t.pin .a2 = true ∧
      level t.pin .a1 = true ∧ addr t = 15#4 ∧ t.SameControl State.reset ∧ t.busy = false ∧
      (s.fault = none → t.ProperEnd ∧
        ∀ r c ch, r < 32 → c < 32 → lit t r c ch = (decide (r = 15 ∨ r = 31) && s.fb.frame r c ch))

/-- `DRIVE` (R105, R176, R177), expanded macro by macro, is the closed form (R106, R178), for every frame and under every
value of the parameters. -/
def Obligations.MacrosExpandToClosedForm : Prop :=
  ∀ (c : Config) (f : Frame),
    (∀ i, rowCycle c f i = (List.range 582).map (cycleEvent c f i)) ∧
    drive c f = (List.range 9312).map (refreshEvent c f)

/-- The counts of a refresh (R106), whatever the frame holds. -/
def Obligations.RefreshEventCounts : Prop :=
  ∀ f : Frame, (drive Params.chip f).length = 9312 ∧
    (drive Params.chip f).count ⟨true, .clk⟩ = 3072 ∧ (drive Params.chip f).count ⟨false, .clk⟩ = 3072 ∧
    (drive Params.chip f).countP (fun e => e.pin = .data) = 3072 ∧
    (drive Params.chip f).countP (fun e => e.pin = .a8 ∨ e.pin = .a4 ∨ e.pin = .a2 ∨ e.pin = .a1) = 64 ∧
    (drive Params.chip f).count ⟨false, .lat⟩ = 16 ∧ (drive Params.chip f).count ⟨true, .lat⟩ = 16

/-- The serial frame and the memory (R66, R94): every bit of every cell is sent exactly once in a refresh. -/
def Obligations.EveryBitSentOnce : Prop :=
  ∀ (row col : Nat) (ch : Channel), row < 32 → col < 32 →
    ∃ K, (K < 9312 ∧ ∀ f : Frame, refreshEvent Params.chip f K = ⟨f row col ch, .data⟩) ∧
      ∀ K', K' < 9312 → (∀ f : Frame, refreshEvent Params.chip f K' = ⟨f row col ch, .data⟩) → K' = K

/-- The ordering guarantees of a refresh (R180), from any pin levels `r` and for any frame: (a) no `SET CLK` while
`PIN[LAT] = 1`, and each row cycle opens with `CLR LAT` and closes with `SET LAT`; (b) every data write is followed by
`CLR CLK`, `SET CLK`; (c) the four address writes stand between the last `SET CLK` and `SET LAT`, `A8` first; (d) at each
`SET LAT`, `ADDR` is the index of the cycle; (e) 192 `SET CLK` lie between `CLR LAT` and `SET LAT`. -/
def Obligations.RefreshOrderingGuarantees : Prop :=
  ∀ (r : PinReg) (f : Frame),
    (∀ K, K < 9312 → refreshEvent Params.chip f K = ⟨true, .clk⟩ →
      level (replayPins r ((List.range K).map (refreshEvent Params.chip f))) .lat = false) ∧
    (∀ K, K < 9312 → ((refreshEvent Params.chip f K).pin = .lat ↔ K % 582 = 0 ∨ K % 582 = 581)) ∧
    (∀ K, K < 9312 → (refreshEvent Params.chip f K).pin = .data →
      refreshEvent Params.chip f (K + 1) = ⟨false, .clk⟩ ∧ refreshEvent Params.chip f (K + 2) = ⟨true, .clk⟩) ∧
    (∀ i, i < 16 →
      refreshEvent Params.chip f (582 * i) = ⟨false, .lat⟩ ∧ refreshEvent Params.chip f (582 * i + 581) = ⟨true, .lat⟩ ∧
      refreshEvent Params.chip f (582 * i + 576) = ⟨true, .clk⟩ ∧
      (refreshEvent Params.chip f (582 * i + 577)).pin = .a8 ∧ (refreshEvent Params.chip f (582 * i + 578)).pin = .a4 ∧
      (refreshEvent Params.chip f (582 * i + 579)).pin = .a2 ∧ (refreshEvent Params.chip f (582 * i + 580)).pin = .a1 ∧
      ((List.range 580).map fun j => refreshEvent Params.chip f (582 * i + 1 + j)).count ⟨true, .clk⟩ = 192 ∧
      ∀ s : State,
        s.pin = replayPins r ((List.range (582 * i + 581)).map (refreshEvent Params.chip f)) → (addr s).toNat = i)

/-- Where each bit ends up (R154, R160, R206): from the entry of ShiftRowPairBits 576 steps emit `SHIFTPAIR IDX`, put
bit `96*half + 32*ch + col` of the serial frame in `SR[191 - b]`, leave the output stage and the address lines alone,
and go on to SetRowAddress. -/
def Obligations.ShiftPairFillsChain : Prop :=
  ∀ s : State, s.st = .shiftRowPairBits → s.half = 0#1 → s.ch = .blue → s.col = 0#5 → s.ph = .data →
    s.inputs = [] → s.fault = none → level s.pin .lat = false → s.fb.complete →
    ∃ t, core.run 576 s = .next t ∧ t.st = .setRowAddress ∧ t.half = 0#1 ∧ t.ch = .blue ∧ t.col = 0#5 ∧
      t.ph = .data ∧ t.ab = 0#2 ∧ t.idx = s.idx ∧ t.fault = none ∧
      t.trace = s.trace ++ shiftPair Params.chip s.fb.frame s.idx.toNat ∧
      (∀ half ch col, half < 2 → col < 32 →
        t.sr.getLsbD (191 - (96 * half + 32 * channelNum ch + col)) = s.fb.frame (s.idx.toNat + 16 * half) col ch) ∧
      t.out = s.out ∧ addr t = addr s ∧ level t.pin .clk = true ∧ level t.pin .lat = false ∧
      level t.pin .data = s.fb.frame (s.idx.toNat + 16) 31 .red

/-- After `ROWCYCLE i` the panel shows exactly rows `i` and `i + 16` of the frame buffer, whatever the chain, the output
stage and the pins held before (R176, R207). -/
def Obligations.RowCycleShowsItsRows : Prop :=
  ∀ s : State, s.st = .disableLatch → s.inputs = [] → s.fault = none → s.fb.complete →
    ∃ t, core.run 582 s = .next t ∧ t.fault = none ∧ addr t = s.idx ∧
      t.trace = s.trace ++ rowCycle Params.chip s.fb.frame s.idx.toNat ∧
      (∀ half ch c, half < 2 → c < 32 →
        t.out.getLsbD (191 - (96 * half + 32 * channelNum ch + c)) = s.fb.frame (s.idx.toNat + 16 * half) c ch) ∧
      (∀ r c ch, r < 32 → c < 32 →
        lit t r c ch = (decide (r % 16 = s.idx.toNat) && s.fb.frame r c ch))

/-! ## The parameters -/

/-- What the other values of the parameters do (D2, D4, D5): `high_first` swaps bits 0..95 and 96..191 of every serial
frame, `descending` reverses each 32-bit group, and latch level 0 swaps the two latch events. -/
def Obligations.ParametersPermuteSerialFrame : Prop :=
  ∀ (f : Frame) (i b K : Nat), b < 192 →
    serialBit { Params.chip with pairOrder := .highFirst } f i b = serialBit Params.chip f i ((b + 96) % 192) ∧
    serialBit { Params.chip with colOrder := .descending } f i b =
      serialBit Params.chip f i (32 * (b / 32) + (31 - b % 32)) ∧
    (refreshEvent { Params.chip with latEnableLevel := false } f K =
      if (refreshEvent Params.chip f K).pin = .lat
      then ⟨!(refreshEvent Params.chip f K).level, .lat⟩ else refreshEvent Params.chip f K)
end

