-- ==== Sys2Proof/Laws/State.lean ====
section
/-! SUPPORT. What each named update of the state does to each field: one lemma per field per update. -/

namespace Sys2Proof.Machine

variable (c : Config) (before : PinReg) (p : Pin) (v : Bool) (r : ProtocolFault) (s : State)

/-! ## setBusy, clearBusy, raiseProtocol, endShift -/

@[simp] theorem setBusy_st : (setBusy s).st = s.st := rfl
@[simp] theorem clearBusy_st : (clearBusy s).st = s.st := rfl
@[simp] theorem setBusy_idx : (setBusy s).idx = s.idx := rfl
@[simp] theorem clearBusy_idx : (clearBusy s).idx = s.idx := rfl
@[simp] theorem setBusy_half : (setBusy s).half = s.half := rfl
@[simp] theorem clearBusy_half : (clearBusy s).half = s.half := rfl
@[simp] theorem setBusy_ch : (setBusy s).ch = s.ch := rfl
@[simp] theorem clearBusy_ch : (clearBusy s).ch = s.ch := rfl
@[simp] theorem setBusy_col : (setBusy s).col = s.col := rfl
@[simp] theorem clearBusy_col : (clearBusy s).col = s.col := rfl
@[simp] theorem setBusy_ph : (setBusy s).ph = s.ph := rfl
@[simp] theorem clearBusy_ph : (clearBusy s).ph = s.ph := rfl
@[simp] theorem setBusy_ab : (setBusy s).ab = s.ab := rfl
@[simp] theorem clearBusy_ab : (clearBusy s).ab = s.ab := rfl
@[simp] theorem setBusy_pin : (setBusy s).pin = s.pin := rfl
@[simp] theorem clearBusy_pin : (clearBusy s).pin = s.pin := rfl
@[simp] theorem setBusy_sr : (setBusy s).sr = s.sr := rfl
@[simp] theorem clearBusy_sr : (clearBusy s).sr = s.sr := rfl
@[simp] theorem setBusy_out : (setBusy s).out = s.out := rfl
@[simp] theorem clearBusy_out : (clearBusy s).out = s.out := rfl
@[simp] theorem setBusy_fault : (setBusy s).fault = s.fault := rfl
@[simp] theorem clearBusy_fault : (clearBusy s).fault = s.fault := rfl
@[simp] theorem setBusy_fb : (setBusy s).fb = s.fb := rfl
@[simp] theorem clearBusy_fb : (clearBusy s).fb = s.fb := rfl
@[simp] theorem setBusy_trace : (setBusy s).trace = s.trace := rfl
@[simp] theorem clearBusy_trace : (clearBusy s).trace = s.trace := rfl
@[simp] theorem setBusy_inputs : (setBusy s).inputs = s.inputs := rfl
@[simp] theorem clearBusy_inputs : (clearBusy s).inputs = s.inputs := rfl
@[simp] theorem setBusy_free : (setBusy s).free = s.free := rfl
@[simp] theorem clearBusy_free : (clearBusy s).free = s.free := rfl
@[simp] theorem setBusy_busy : (setBusy s).busy = true := rfl
@[simp] theorem clearBusy_busy : (clearBusy s).busy = false := rfl
@[simp] theorem raiseProtocol_st : (raiseProtocol r s).st = s.st := rfl
@[simp] theorem raiseProtocol_idx : (raiseProtocol r s).idx = s.idx := rfl
@[simp] theorem raiseProtocol_half : (raiseProtocol r s).half = s.half := rfl
@[simp] theorem raiseProtocol_ch : (raiseProtocol r s).ch = s.ch := rfl
@[simp] theorem raiseProtocol_col : (raiseProtocol r s).col = s.col := rfl
@[simp] theorem raiseProtocol_ph : (raiseProtocol r s).ph = s.ph := rfl
@[simp] theorem raiseProtocol_ab : (raiseProtocol r s).ab = s.ab := rfl
@[simp] theorem raiseProtocol_pin : (raiseProtocol r s).pin = s.pin := rfl
@[simp] theorem raiseProtocol_busy : (raiseProtocol r s).busy = s.busy := rfl
@[simp] theorem raiseProtocol_sr : (raiseProtocol r s).sr = s.sr := rfl
@[simp] theorem raiseProtocol_out : (raiseProtocol r s).out = s.out := rfl
@[simp] theorem raiseProtocol_fb : (raiseProtocol r s).fb = s.fb := rfl
@[simp] theorem raiseProtocol_trace : (raiseProtocol r s).trace = s.trace := rfl
@[simp] theorem raiseProtocol_inputs : (raiseProtocol r s).inputs = s.inputs := rfl
@[simp] theorem raiseProtocol_free : (raiseProtocol r s).free = s.free := rfl
@[simp] theorem raiseProtocol_fault : (raiseProtocol r s).fault = some (s.fault.getD r) := rfl
@[simp] theorem endShift_idx : (endShift s).idx = s.idx := rfl
@[simp] theorem endShift_half : (endShift s).half = s.half := rfl
@[simp] theorem endShift_ch : (endShift s).ch = s.ch := rfl
@[simp] theorem endShift_col : (endShift s).col = s.col := rfl
@[simp] theorem endShift_ph : (endShift s).ph = s.ph := rfl
@[simp] theorem endShift_pin : (endShift s).pin = s.pin := rfl
@[simp] theorem endShift_busy : (endShift s).busy = s.busy := rfl
@[simp] theorem endShift_sr : (endShift s).sr = s.sr := rfl
@[simp] theorem endShift_out : (endShift s).out = s.out := rfl
@[simp] theorem endShift_fault : (endShift s).fault = s.fault := rfl
@[simp] theorem endShift_fb : (endShift s).fb = s.fb := rfl
@[simp] theorem endShift_trace : (endShift s).trace = s.trace := rfl
@[simp] theorem endShift_inputs : (endShift s).inputs = s.inputs := rfl
@[simp] theorem endShift_free : (endShift s).free = s.free := rfl
@[simp] theorem endShift_ab : (endShift s).ab = 0#2 := rfl
@[simp] theorem endShift_st : (endShift s).st = .setRowAddress := rfl

/-! ## The sink: monitorCommit, commit, transfer, drawOut, sinkReact -/

@[simp] theorem monitorCommit_st : (monitorCommit c s).st = s.st := by
  unfold monitorCommit; split <;> rfl
@[simp] theorem monitorCommit_idx : (monitorCommit c s).idx = s.idx := by
  unfold monitorCommit; split <;> rfl
@[simp] theorem monitorCommit_half : (monitorCommit c s).half = s.half := by
  unfold monitorCommit; split <;> rfl
@[simp] theorem monitorCommit_ch : (monitorCommit c s).ch = s.ch := by
  unfold monitorCommit; split <;> rfl
@[simp] theorem monitorCommit_col : (monitorCommit c s).col = s.col := by
  unfold monitorCommit; split <;> rfl
@[simp] theorem monitorCommit_ph : (monitorCommit c s).ph = s.ph := by
  unfold monitorCommit; split <;> rfl
@[simp] theorem monitorCommit_ab : (monitorCommit c s).ab = s.ab := by
  unfold monitorCommit; split <;> rfl
@[simp] theorem monitorCommit_pin : (monitorCommit c s).pin = s.pin := by
  unfold monitorCommit; split <;> rfl
@[simp] theorem monitorCommit_busy : (monitorCommit c s).busy = s.busy := by
  unfold monitorCommit; split <;> rfl
@[simp] theorem monitorCommit_sr : (monitorCommit c s).sr = s.sr := by
  unfold monitorCommit; split <;> rfl
@[simp] theorem monitorCommit_out : (monitorCommit c s).out = s.out := by
  unfold monitorCommit; split <;> rfl
@[simp] theorem monitorCommit_fb : (monitorCommit c s).fb = s.fb := by
  unfold monitorCommit; split <;> rfl
@[simp] theorem monitorCommit_trace : (monitorCommit c s).trace = s.trace := by
  unfold monitorCommit; split <;> rfl
@[simp] theorem monitorCommit_inputs : (monitorCommit c s).inputs = s.inputs := by
  unfold monitorCommit; split <;> rfl
@[simp] theorem monitorCommit_free : (monitorCommit c s).free = s.free := by
  unfold monitorCommit; split <;> rfl
@[simp] theorem commit_st : (commit c before s).st = s.st := by
  unfold commit; split <;> simp
@[simp] theorem commit_idx : (commit c before s).idx = s.idx := by
  unfold commit; split <;> simp
@[simp] theorem commit_half : (commit c before s).half = s.half := by
  unfold commit; split <;> simp
@[simp] theorem commit_ch : (commit c before s).ch = s.ch := by
  unfold commit; split <;> simp
@[simp] theorem commit_col : (commit c before s).col = s.col := by
  unfold commit; split <;> simp
@[simp] theorem commit_ph : (commit c before s).ph = s.ph := by
  unfold commit; split <;> simp
@[simp] theorem commit_ab : (commit c before s).ab = s.ab := by
  unfold commit; split <;> simp
@[simp] theorem commit_pin : (commit c before s).pin = s.pin := by
  unfold commit; split <;> simp
@[simp] theorem commit_busy : (commit c before s).busy = s.busy := by
  unfold commit; split <;> simp
@[simp] theorem commit_out : (commit c before s).out = s.out := by
  unfold commit; split <;> simp
@[simp] theorem commit_fb : (commit c before s).fb = s.fb := by
  unfold commit; split <;> simp
@[simp] theorem commit_trace : (commit c before s).trace = s.trace := by
  unfold commit; split <;> simp
@[simp] theorem commit_inputs : (commit c before s).inputs = s.inputs := by
  unfold commit; split <;> simp
@[simp] theorem commit_free : (commit c before s).free = s.free := by
  unfold commit; split <;> simp
@[simp] theorem transfer_st : (transfer c before s).st = s.st := by
  unfold transfer; split <;> rfl
@[simp] theorem transfer_idx : (transfer c before s).idx = s.idx := by
  unfold transfer; split <;> rfl
@[simp] theorem transfer_half : (transfer c before s).half = s.half := by
  unfold transfer; split <;> rfl
@[simp] theorem transfer_ch : (transfer c before s).ch = s.ch := by
  unfold transfer; split <;> rfl
@[simp] theorem transfer_col : (transfer c before s).col = s.col := by
  unfold transfer; split <;> rfl
@[simp] theorem transfer_ph : (transfer c before s).ph = s.ph := by
  unfold transfer; split <;> rfl
@[simp] theorem transfer_ab : (transfer c before s).ab = s.ab := by
  unfold transfer; split <;> rfl
@[simp] theorem transfer_pin : (transfer c before s).pin = s.pin := by
  unfold transfer; split <;> rfl
@[simp] theorem transfer_busy : (transfer c before s).busy = s.busy := by
  unfold transfer; split <;> rfl
@[simp] theorem transfer_sr : (transfer c before s).sr = s.sr := by
  unfold transfer; split <;> rfl
@[simp] theorem transfer_fault : (transfer c before s).fault = s.fault := by
  unfold transfer; split <;> rfl
@[simp] theorem transfer_fb : (transfer c before s).fb = s.fb := by
  unfold transfer; split <;> rfl
@[simp] theorem transfer_trace : (transfer c before s).trace = s.trace := by
  unfold transfer; split <;> rfl
@[simp] theorem transfer_inputs : (transfer c before s).inputs = s.inputs := by
  unfold transfer; split <;> rfl
@[simp] theorem transfer_free : (transfer c before s).free = s.free := by
  unfold transfer; split <;> rfl
@[simp] theorem drawOut_st : (drawOut s).st = s.st := by
  unfold drawOut; split <;> rfl
@[simp] theorem drawOut_idx : (drawOut s).idx = s.idx := by
  unfold drawOut; split <;> rfl
@[simp] theorem drawOut_half : (drawOut s).half = s.half := by
  unfold drawOut; split <;> rfl
@[simp] theorem drawOut_ch : (drawOut s).ch = s.ch := by
  unfold drawOut; split <;> rfl
@[simp] theorem drawOut_col : (drawOut s).col = s.col := by
  unfold drawOut; split <;> rfl
@[simp] theorem drawOut_ph : (drawOut s).ph = s.ph := by
  unfold drawOut; split <;> rfl
@[simp] theorem drawOut_ab : (drawOut s).ab = s.ab := by
  unfold drawOut; split <;> rfl
@[simp] theorem drawOut_pin : (drawOut s).pin = s.pin := by
  unfold drawOut; split <;> rfl
@[simp] theorem drawOut_busy : (drawOut s).busy = s.busy := by
  unfold drawOut; split <;> rfl
@[simp] theorem drawOut_sr : (drawOut s).sr = s.sr := by
  unfold drawOut; split <;> rfl
@[simp] theorem drawOut_fault : (drawOut s).fault = s.fault := by
  unfold drawOut; split <;> rfl
@[simp] theorem drawOut_fb : (drawOut s).fb = s.fb := by
  unfold drawOut; split <;> rfl
@[simp] theorem drawOut_trace : (drawOut s).trace = s.trace := by
  unfold drawOut; split <;> rfl
@[simp] theorem drawOut_inputs : (drawOut s).inputs = s.inputs := by
  unfold drawOut; split <;> rfl
@[simp] theorem sinkReact_st : (sinkReact c before s).st = s.st := by
  simp [sinkReact]
@[simp] theorem sinkReact_idx : (sinkReact c before s).idx = s.idx := by
  simp [sinkReact]
@[simp] theorem sinkReact_half : (sinkReact c before s).half = s.half := by
  simp [sinkReact]
@[simp] theorem sinkReact_ch : (sinkReact c before s).ch = s.ch := by
  simp [sinkReact]
@[simp] theorem sinkReact_col : (sinkReact c before s).col = s.col := by
  simp [sinkReact]
@[simp] theorem sinkReact_ph : (sinkReact c before s).ph = s.ph := by
  simp [sinkReact]
@[simp] theorem sinkReact_ab : (sinkReact c before s).ab = s.ab := by
  simp [sinkReact]
@[simp] theorem sinkReact_pin : (sinkReact c before s).pin = s.pin := by
  simp [sinkReact]
@[simp] theorem sinkReact_busy : (sinkReact c before s).busy = s.busy := by
  simp [sinkReact]
@[simp] theorem sinkReact_fb : (sinkReact c before s).fb = s.fb := by
  simp [sinkReact]
@[simp] theorem sinkReact_trace : (sinkReact c before s).trace = s.trace := by
  simp [sinkReact]
@[simp] theorem sinkReact_inputs : (sinkReact c before s).inputs = s.inputs := by
  simp [sinkReact]

/-! ## emit -/

@[simp] theorem emit_st : (emit c p v s).st = s.st := by
  simp [emit]
@[simp] theorem emit_idx : (emit c p v s).idx = s.idx := by
  simp [emit]
@[simp] theorem emit_half : (emit c p v s).half = s.half := by
  simp [emit]
@[simp] theorem emit_ch : (emit c p v s).ch = s.ch := by
  simp [emit]
@[simp] theorem emit_col : (emit c p v s).col = s.col := by
  simp [emit]
@[simp] theorem emit_ph : (emit c p v s).ph = s.ph := by
  simp [emit]
@[simp] theorem emit_ab : (emit c p v s).ab = s.ab := by
  simp [emit]
@[simp] theorem emit_busy : (emit c p v s).busy = s.busy := by
  simp [emit]
@[simp] theorem emit_fb : (emit c p v s).fb = s.fb := by
  simp [emit]
@[simp] theorem emit_inputs : (emit c p v s).inputs = s.inputs := by
  simp [emit]
@[simp] theorem emit_pin : (emit c p v s).pin = setLevel s.pin p v := by
  simp [emit]
@[simp] theorem emit_trace : (emit c p v s).trace = s.trace ++ [⟨v, p⟩] := by
  simp [emit]

/-! ## The counters: what advance leaves alone -/

@[simp] theorem advanceHalfOuter_idx : (advanceHalfOuter s).idx = s.idx := by
  unfold advanceHalfOuter; split <;> rfl
@[simp] theorem advanceChannelInner_idx : (advanceChannelInner s).idx = s.idx := by
  unfold advanceChannelInner; split <;> simp
@[simp] theorem advanceChannelOuter_idx : (advanceChannelOuter s).idx = s.idx := by
  unfold advanceChannelOuter; split <;> rfl
@[simp] theorem advanceHalfInner_idx : (advanceHalfInner s).idx = s.idx := by
  unfold advanceHalfInner; split <;> simp
@[simp] theorem advance_idx : (advance c s).idx = s.idx := by
  unfold advance; split <;> [rfl; (split <;> simp)]
@[simp] theorem advanceHalfOuter_ph : (advanceHalfOuter s).ph = s.ph := by
  unfold advanceHalfOuter; split <;> rfl
@[simp] theorem advanceChannelInner_ph : (advanceChannelInner s).ph = s.ph := by
  unfold advanceChannelInner; split <;> simp
@[simp] theorem advanceChannelOuter_ph : (advanceChannelOuter s).ph = s.ph := by
  unfold advanceChannelOuter; split <;> rfl
@[simp] theorem advanceHalfInner_ph : (advanceHalfInner s).ph = s.ph := by
  unfold advanceHalfInner; split <;> simp
@[simp] theorem advance_ph : (advance c s).ph = s.ph := by
  unfold advance; split <;> [rfl; (split <;> simp)]
@[simp] theorem advanceHalfOuter_pin : (advanceHalfOuter s).pin = s.pin := by
  unfold advanceHalfOuter; split <;> rfl
@[simp] theorem advanceChannelInner_pin : (advanceChannelInner s).pin = s.pin := by
  unfold advanceChannelInner; split <;> simp
@[simp] theorem advanceChannelOuter_pin : (advanceChannelOuter s).pin = s.pin := by
  unfold advanceChannelOuter; split <;> rfl
@[simp] theorem advanceHalfInner_pin : (advanceHalfInner s).pin = s.pin := by
  unfold advanceHalfInner; split <;> simp
@[simp] theorem advance_pin : (advance c s).pin = s.pin := by
  unfold advance; split <;> [rfl; (split <;> simp)]
@[simp] theorem advanceHalfOuter_busy : (advanceHalfOuter s).busy = s.busy := by
  unfold advanceHalfOuter; split <;> rfl
@[simp] theorem advanceChannelInner_busy : (advanceChannelInner s).busy = s.busy := by
  unfold advanceChannelInner; split <;> simp
@[simp] theorem advanceChannelOuter_busy : (advanceChannelOuter s).busy = s.busy := by
  unfold advanceChannelOuter; split <;> rfl
@[simp] theorem advanceHalfInner_busy : (advanceHalfInner s).busy = s.busy := by
  unfold advanceHalfInner; split <;> simp
@[simp] theorem advance_busy : (advance c s).busy = s.busy := by
  unfold advance; split <;> [rfl; (split <;> simp)]
@[simp] theorem advanceHalfOuter_sr : (advanceHalfOuter s).sr = s.sr := by
  unfold advanceHalfOuter; split <;> rfl
@[simp] theorem advanceChannelInner_sr : (advanceChannelInner s).sr = s.sr := by
  unfold advanceChannelInner; split <;> simp
@[simp] theorem advanceChannelOuter_sr : (advanceChannelOuter s).sr = s.sr := by
  unfold advanceChannelOuter; split <;> rfl
@[simp] theorem advanceHalfInner_sr : (advanceHalfInner s).sr = s.sr := by
  unfold advanceHalfInner; split <;> simp
@[simp] theorem advance_sr : (advance c s).sr = s.sr := by
  unfold advance; split <;> [rfl; (split <;> simp)]
@[simp] theorem advanceHalfOuter_out : (advanceHalfOuter s).out = s.out := by
  unfold advanceHalfOuter; split <;> rfl
@[simp] theorem advanceChannelInner_out : (advanceChannelInner s).out = s.out := by
  unfold advanceChannelInner; split <;> simp
@[simp] theorem advanceChannelOuter_out : (advanceChannelOuter s).out = s.out := by
  unfold advanceChannelOuter; split <;> rfl
@[simp] theorem advanceHalfInner_out : (advanceHalfInner s).out = s.out := by
  unfold advanceHalfInner; split <;> simp
@[simp] theorem advance_out : (advance c s).out = s.out := by
  unfold advance; split <;> [rfl; (split <;> simp)]
@[simp] theorem advanceHalfOuter_fault : (advanceHalfOuter s).fault = s.fault := by
  unfold advanceHalfOuter; split <;> rfl
@[simp] theorem advanceChannelInner_fault : (advanceChannelInner s).fault = s.fault := by
  unfold advanceChannelInner; split <;> simp
@[simp] theorem advanceChannelOuter_fault : (advanceChannelOuter s).fault = s.fault := by
  unfold advanceChannelOuter; split <;> rfl
@[simp] theorem advanceHalfInner_fault : (advanceHalfInner s).fault = s.fault := by
  unfold advanceHalfInner; split <;> simp
@[simp] theorem advance_fault : (advance c s).fault = s.fault := by
  unfold advance; split <;> [rfl; (split <;> simp)]
@[simp] theorem advanceHalfOuter_fb : (advanceHalfOuter s).fb = s.fb := by
  unfold advanceHalfOuter; split <;> rfl
@[simp] theorem advanceChannelInner_fb : (advanceChannelInner s).fb = s.fb := by
  unfold advanceChannelInner; split <;> simp
@[simp] theorem advanceChannelOuter_fb : (advanceChannelOuter s).fb = s.fb := by
  unfold advanceChannelOuter; split <;> rfl
@[simp] theorem advanceHalfInner_fb : (advanceHalfInner s).fb = s.fb := by
  unfold advanceHalfInner; split <;> simp
@[simp] theorem advance_fb : (advance c s).fb = s.fb := by
  unfold advance; split <;> [rfl; (split <;> simp)]
@[simp] theorem advanceHalfOuter_trace : (advanceHalfOuter s).trace = s.trace := by
  unfold advanceHalfOuter; split <;> rfl
@[simp] theorem advanceChannelInner_trace : (advanceChannelInner s).trace = s.trace := by
  unfold advanceChannelInner; split <;> simp
@[simp] theorem advanceChannelOuter_trace : (advanceChannelOuter s).trace = s.trace := by
  unfold advanceChannelOuter; split <;> rfl
@[simp] theorem advanceHalfInner_trace : (advanceHalfInner s).trace = s.trace := by
  unfold advanceHalfInner; split <;> simp
@[simp] theorem advance_trace : (advance c s).trace = s.trace := by
  unfold advance; split <;> [rfl; (split <;> simp)]
@[simp] theorem advanceHalfOuter_inputs : (advanceHalfOuter s).inputs = s.inputs := by
  unfold advanceHalfOuter; split <;> rfl
@[simp] theorem advanceChannelInner_inputs : (advanceChannelInner s).inputs = s.inputs := by
  unfold advanceChannelInner; split <;> simp
@[simp] theorem advanceChannelOuter_inputs : (advanceChannelOuter s).inputs = s.inputs := by
  unfold advanceChannelOuter; split <;> rfl
@[simp] theorem advanceHalfInner_inputs : (advanceHalfInner s).inputs = s.inputs := by
  unfold advanceHalfInner; split <;> simp
@[simp] theorem advance_inputs : (advance c s).inputs = s.inputs := by
  unfold advance; split <;> [rfl; (split <;> simp)]
@[simp] theorem advanceHalfOuter_free : (advanceHalfOuter s).free = s.free := by
  unfold advanceHalfOuter; split <;> rfl
@[simp] theorem advanceChannelInner_free : (advanceChannelInner s).free = s.free := by
  unfold advanceChannelInner; split <;> simp
@[simp] theorem advanceChannelOuter_free : (advanceChannelOuter s).free = s.free := by
  unfold advanceChannelOuter; split <;> rfl
@[simp] theorem advanceHalfInner_free : (advanceHalfInner s).free = s.free := by
  unfold advanceHalfInner; split <;> simp
@[simp] theorem advance_free : (advance c s).free = s.free := by
  unfold advance; split <;> [rfl; (split <;> simp)]

end Sys2Proof.Machine
end

