-- ==== Sys2Proof/Laws/Ops.lean ====
section
/-! SUPPORT. One lemma per shared operation that says everything it can do; proofs cite these instead of unfolding the
operation. -/

namespace Sys2Proof.Machine

/-! ## Pins -/

@[simp] theorem level_setLevel_same (r : PinReg) (p : Pin) (v : Bool) : level (setLevel r p v) p = v := by
  cases v <;> cases p <;> simp [level, setLevel, Pin.num]

theorem level_setLevel_ne (r : PinReg) {p q : Pin} (v : Bool) (h : q ≠ p) :
    level (setLevel r p v) q = level r q := by
  cases v <;> cases p <;> cases q <;> first | exact absurd rfl h | simp [level, setLevel, Pin.num]

/-- The level of any pin after a write of one. -/
theorem level_setLevel (r : PinReg) (p q : Pin) (v : Bool) :
    level (setLevel r p v) q = if q = p then v else level r q := by
  by_cases h : q = p
  · subst h; simp
  · simp [h, level_setLevel_ne r v h]

/-- Two pin registers with the same seven levels are equal. -/
theorem pinReg_ext {r q : PinReg} (h : ∀ p, level r p = level q p) : r = q := by
  apply BitVec.eq_of_getLsbD_eq
  intro i hi
  have : i = 0 ∨ i = 1 ∨ i = 2 ∨ i = 3 ∨ i = 4 ∨ i = 5 ∨ i = 6 := by omega
  rcases this with rfl | rfl | rfl | rfl | rfl | rfl | rfl
  · exact h .data
  · exact h .clk
  · exact h .lat
  · exact h .a8
  · exact h .a4
  · exact h .a2
  · exact h .a1

/-! ## Edges under the default parameters -/

theorem commitEdge_setLevel (r : PinReg) (p : Pin) (v : Bool) :
    commitEdge Params.chip r (setLevel r p v) = (decide (p = .clk) && v && !level r .clk) := by
  simp only [commitEdge, Params.chip, level_setLevel]
  cases p <;> cases v <;> cases h : level r .clk <;> simp

theorem enableEdge_setLevel (r : PinReg) (p : Pin) (v : Bool) :
    enableEdge Params.chip r (setLevel r p v) = (decide (p = .lat) && v && !level r .lat) := by
  simp only [enableEdge, Params.chip, level_setLevel]
  cases p <;> cases v <;> cases h : level r .lat <;> simp

/-! ## The primitive pin operation, case by case (R130, R201, R203, R209) -/

/-- A draw of `OUT` is what `afterEvent` says of it. -/
theorem drawOut_afterEvent (s : State) (e : PinEvent) (r : PinReg) (o : Chain) :
    drawOut { s with pin := r, trace := s.trace ++ [e], out := o } = s.afterEvent e r o := by
  cases h : s.fault <;> simp [drawOut, State.afterEvent, h]

/-- An event without an edge: only the pin and the trace. -/
theorem emit_quiet (p : Pin) (v : Bool) (s : State) (hc : p = .clk → v = true → level s.pin .clk = true)
    (hl : p = .lat → v = true → level s.pin .lat = true) :
    emit Params.chip p v s = s.afterEvent ⟨v, p⟩ (setLevel s.pin p v) s.out := by
  have h1 : commitEdge Params.chip s.pin (setLevel s.pin p v) = false := by
    rw [commitEdge_setLevel]; cases v <;> by_cases hp : p = .clk <;> simp_all
  have h2 : enableEdge Params.chip s.pin (setLevel s.pin p v) = false := by
    rw [enableEdge_setLevel]; cases v <;> by_cases hp : p = .lat <;> simp_all
  rw [← drawOut_afterEvent]
  simp [emit, sinkReact, commit, transfer, h1, h2]

theorem emit_data (v : Bool) (s : State) :
    emit Params.chip .data v s = s.afterEvent ⟨v, .data⟩ (setLevel s.pin .data v) s.out :=
  emit_quiet _ _ _ (fun h => nomatch h) (fun h => nomatch h)

theorem emit_addrPin (ab : BitVec 2) (v : Bool) (s : State) :
    emit Params.chip (addrPin ab) v s = s.afterEvent ⟨v, addrPin ab⟩ (setLevel s.pin (addrPin ab) v) s.out := by
  apply emit_quiet <;> · intro h; unfold addrPin at h; split at h <;> cases h

theorem emit_clk_low (s : State) :
    emit Params.chip .clk false s = s.afterEvent ⟨false, .clk⟩ (setLevel s.pin .clk false) s.out :=
  emit_quiet _ _ _ (fun _ h => nomatch h) (fun _ h => nomatch h)

theorem emit_lat_low (s : State) :
    emit Params.chip .lat false s = s.afterEvent ⟨false, .lat⟩ (setLevel s.pin .lat false) s.out :=
  emit_quiet _ _ _ (fun _ h => nomatch h) (fun _ h => nomatch h)

/-- A rising edge of `CLK` with the latch disabled: the chain shifts. -/
theorem emit_clk_rise (s : State) (hc : level s.pin .clk = false) (hl : level s.pin .lat = false) :
    emit Params.chip .clk true s =
      { s.afterEvent ⟨true, .clk⟩ (setLevel s.pin .clk true) s.out with
        sr := shiftIn s.sr (level s.pin .data) } := by
  have h1 : commitEdge Params.chip s.pin (setLevel s.pin .clk true) = true := by simp [commitEdge_setLevel, hc]
  have h2 : enableEdge Params.chip s.pin (setLevel s.pin .clk true) = false := by simp [enableEdge_setLevel]
  have h3 : level (setLevel s.pin .clk true) .lat = false := by rw [level_setLevel_ne _ _ (by decide)]; exact hl
  have h4 : level (setLevel s.pin .clk true) .data = level s.pin .data := level_setLevel_ne _ _ (by decide)
  have h5 : Params.chip.latEnableLevel = true := rfl
  cases hf : s.fault <;>
    simp [emit, sinkReact, commit, transfer, monitorCommit, drawOut, State.afterEvent, h1, h2, h3, h4, h5, hf]

/-- A rising edge of `CLK` with the latch enabled: the chain shifts, `FAULT` is set and `OUT` is drawn. -/
theorem emit_clk_rise_latched (s : State) (hc : level s.pin .clk = false) (hl : level s.pin .lat = true) :
    emit Params.chip .clk true s =
      { s with
        pin := setLevel s.pin .clk true
        trace := s.trace ++ [⟨true, .clk⟩]
        sr := shiftIn s.sr (level s.pin .data)
        fault := some (s.fault.getD .shiftWhileLatched)
        out := Config.freeOut s.free
        free := s.free + 1 } := by
  have h1 : commitEdge Params.chip s.pin (setLevel s.pin .clk true) = true := by simp [commitEdge_setLevel, hc]
  have h2 : enableEdge Params.chip s.pin (setLevel s.pin .clk true) = false := by simp [enableEdge_setLevel]
  have h3 : level (setLevel s.pin .clk true) .lat = true := by rw [level_setLevel_ne _ _ (by decide)]; exact hl
  have h4 : level (setLevel s.pin .clk true) .data = level s.pin .data := level_setLevel_ne _ _ (by decide)
  have h5 : Params.chip.latEnableLevel = true := rfl
  simp [emit, sinkReact, commit, transfer, monitorCommit, drawOut, raiseProtocol, h1, h2, h3, h4, h5]

/-- `SET CLK` that finds the pin at 1: no edge. -/
theorem emit_clk_high (s : State) (hc : level s.pin .clk = true) :
    emit Params.chip .clk true s = s.afterEvent ⟨true, .clk⟩ (setLevel s.pin .clk true) s.out :=
  emit_quiet _ _ _ (fun _ _ => hc) (fun h => nomatch h)

/-- The enable transition: the chain is transferred. -/
theorem emit_lat_rise (s : State) (hl : level s.pin .lat = false) :
    emit Params.chip .lat true s = s.afterEvent ⟨true, .lat⟩ (setLevel s.pin .lat true) s.sr := by
  have h1 : commitEdge Params.chip s.pin (setLevel s.pin .lat true) = false := by simp [commitEdge_setLevel]
  have h2 : enableEdge Params.chip s.pin (setLevel s.pin .lat true) = true := by simp [enableEdge_setLevel, hl]
  rw [← drawOut_afterEvent]
  simp [emit, sinkReact, commit, transfer, h1, h2]

/-- `SET LAT` that finds the pin at 1: no transition. -/
theorem emit_lat_high (s : State) (hl : level s.pin .lat = true) :
    emit Params.chip .lat true s = s.afterEvent ⟨true, .lat⟩ (setLevel s.pin .lat true) s.out :=
  emit_quiet _ _ _ (fun h => nomatch h) (fun _ _ => hl)

/-- `FAULT` is never cleared by a pin event (R34). -/
theorem emit_fault_of_some {p : Pin} {v : Bool} {s : State} {r : ProtocolFault} (h : s.fault = some r) :
    (emit Params.chip p v s).fault = some r := by
  unfold emit sinkReact
  simp only [drawOut_fault, transfer_fault]
  unfold commit monitorCommit
  split
  · split <;> simp [h]
  · exact h

/-! ## The data step (R155) -/

theorem dataStep_written (c : Config) (s : State) {p : Pixel}
    (h : s.fb.read (cellAddr c s.idx s.half s.col).toNat = some p) :
    dataStep c s = .next { emit c .data (p.getLsbD (channelNum s.ch)) s with ph := .clkLow } := by
  simp [dataStep, Memory.bit, h]

theorem dataStep_unwritten (c : Config) (s : State)
    (h : s.fb.read (cellAddr c s.idx s.half s.col).toNat = none) :
    dataStep c s = .fault (.unwrittenCell (cellAddr c s.idx s.half s.col)) := by
  simp [dataStep, Memory.bit, h]

/-- The address is `{HALF, IDX, COL}` (R91). -/
theorem cellAddr_toNat (idx : BitVec 4) (half : BitVec 1) (col : BitVec 5) :
    (cellAddr Params.chip idx half col).toNat = 32 * (16 * half.toNat + idx.toNat) + col.toNat := by
  have h1 := idx.isLt
  have h2 := half.isLt
  have h3 := col.isLt
  simp only [cellAddr, sentHalf, sentCol, Params.chip, BitVec.toNat_append]
  rw [← Nat.shiftLeft_add_eq_or_of_lt h3, ← Nat.shiftLeft_add_eq_or_of_lt h1]
  simp only [Nat.shiftLeft_eq]
  omega

/-! ## The counters (R157) -/

/-- Everything `advance` does under the default nesting. -/
theorem advance_chip (s : State) :
    advance Params.chip s =
      if s.col.toNat < 31 then { s with col := s.col + 1#5 }
      else if s.ch = .blue then { s with col := 0#5, ch := .green }
      else if s.ch = .green then { s with col := 0#5, ch := .red }
      else if s.half = 0#1 then { s with col := 0#5, ch := .blue, half := 1#1 }
      else { s with col := 0#5, ch := .blue, half := 0#1, ab := 0#2, st := .setRowAddress } := by
  unfold advance
  split
  · rfl
  · simp only [Params.chip, advanceChannelInner, advanceHalfOuter, endShift]
    cases h : s.ch <;> simp

end Sys2Proof.Machine
end

