-- ==== Sys2Proof/Laws/Step.lean ====
section
/-! SUPPORT. What one step can be, and how the sequencer's steps read without inputs. -/

namespace Sys2Proof.Machine

@[simp] theorem decode_stateCode (q : SeqState) : decode (.state q.code) = .ok q.instr := by cases q <;> rfl

@[simp] theorem decode_eventWord (e : PinEvent) : decode (.event e.word) = .ok e.instr := by
  obtain ⟨v, p⟩ := e
  cases v <;> cases p <;> rfl

/-- Everything a fetch can answer. -/
theorem fetch_cases (s : State) :
    fetch s = (.word (.state s.st.code), s) ∨
    (∃ m rest, fetch s = (moveAction s m, { s with inputs := rest }) ∧
      (s.inputs = .host m :: rest ∧ s.busy = false ∨ s.inputs = .forced m :: rest)) ∨
    ∃ w rest, fetch s = (.word (.event w), { s with inputs := rest }) ∧ s.inputs = .foreign w :: rest := by
  unfold fetch
  split
  · exact .inl rfl
  · rename_i m rest h
    cases hb : s.busy
    · exact .inr (.inl ⟨m, rest, by simp, .inl ⟨h, rfl⟩⟩)
    · exact .inl rfl
  · rename_i m rest h
    exact .inr (.inl ⟨m, rest, rfl, .inr h⟩)
  · rename_i w rest h
    exact .inr (.inr ⟨w, rest, rfl, h⟩)

/-- Without an input, the sequencer's own operation runs. -/
theorem step_no_inputs {s : State} (h : s.inputs = []) : step s = exec s.st.instr s := by
  simp [step, fetch, h, seqAction, monitorForeign]

/-- While the block is busy, a move of the host waits. -/
theorem step_host_waits {s : State} {m : Move} {rest : List Input} (h : s.inputs = .host m :: rest)
    (hb : s.busy = true) : step s = exec s.st.instr s := by
  simp [step, fetch, h, hb, seqAction, monitorForeign]

/-- A move of the host that is taken: the idle request, `START`, or a write; never a pin event (R240). -/
theorem step_host {s : State} {m : Move} {rest : List Input} (h : s.inputs = .host m :: rest) (hb : s.busy = false) :
    step s = exec s.st.instr { s with inputs := rest } ∨ step s = exec .start { s with inputs := rest } ∨
    ∃ a v, m = .write a v ∧ step s = hostWrite Params.chip a v { s with inputs := rest } := by
  cases m with
  | cmd req =>
    by_cases hr : req = 1#1
    · subst hr
      exact .inr (.inl (by simp [step, fetch, h, hb, moveAction, decode, monitorForeign]))
    · exact .inl (by simp [step, fetch, h, hb, moveAction, hr, seqAction, monitorForeign])
  | write a v => exact .inr (.inr ⟨a, v, rfl, by simp [step, fetch, h, hb, moveAction]⟩)

/-- Everything a step can be: an operation of the sequencer; a pin event, `START` or a write from outside; or the
refusal of a reserved event word. -/
theorem step_cases (s : State) :
    (∃ inp, step s = exec s.st.instr { s with inputs := inp }) ∨
    (∃ e inp, step s = exec (PinEvent.instr e) { s with inputs := inp } ∧ s.busy = false) ∨
    (∃ e inp, step s = exec (PinEvent.instr e) (raiseProtocol .foreignPinWrite { s with inputs := inp }) ∧
      s.busy = true) ∨
    (∃ inp, step s = exec .start { s with inputs := inp }) ∨
    (∃ a v inp, step s = hostWrite Params.chip a v { s with inputs := inp }) ∨
    (∃ r, step s = .refused (.undecodable r)) := by
  rcases fetch_cases s with h | ⟨m, rest, h, -⟩ | ⟨w, rest, h, -⟩
  · exact .inl ⟨s.inputs, by simp [step, h, monitorForeign]⟩
  · cases m with
    | cmd req =>
      by_cases hr : req = 1#1
      · subst hr
        exact .inr (.inr (.inr (.inl ⟨rest, by simp [step, h, moveAction, decode, monitorForeign]⟩)))
      · exact .inl ⟨rest, by simp [step, h, moveAction, hr, seqAction, monitorForeign]⟩
    | write a v => exact .inr (.inr (.inr (.inr (.inl ⟨a, v, rest, by simp [step, h, moveAction]⟩))))
  · cases hd : decodeEvent w with
    | error r => exact .inr (.inr (.inr (.inr (.inr ⟨r, by simp [step, h, decode, hd]⟩))))
    | ok e =>
      cases hb : s.busy
      · exact .inr (.inl ⟨e, rest, by simp [step, h, decode, hd, monitorForeign, hb], rfl⟩)
      · exact .inr (.inr (.inl ⟨e, rest, by simp [step, h, decode, hd, monitorForeign, hb], rfl⟩))

/-- A pin event's instruction is the primitive operation on its pin. -/
theorem exec_event (e : PinEvent) (s : State) : exec e.instr s = .next (emit Params.chip e.pin e.level s) := by
  obtain ⟨v, p⟩ := e
  cases v <;> cases p <;> rfl

/-! ## Runs -/

@[simp] theorem run_zero (s : State) : core.run 0 s = .next s := rfl

/-- A machine's run of `n + 1` steps, by the first step's outcome. -/
theorem coreRun_succ (M : Host.Core) (n : Nat) (s : M.State) :
    M.run (n + 1) s =
      match M.step s with
      | .next t => M.run n t
      | .fault r => .fault r
      | .refused r => .refused r := by
  cases h : M.step s <;> simp only [Host.Core.run, h]

theorem run_succ_of_next {s t : State} (n : Nat) (h : step s = .next t) : core.run (n + 1) s = core.run n t := by
  have := coreRun_succ core n s
  rw [show core.step s = .next t from h] at this
  exact this

/-- A run of `n + 1` steps that answers a next state begins with such a step. -/
theorem run_succ_next {s u : State} {n : Nat} (h : core.run (n + 1) s = .next u) :
    ∃ t, step s = .next t ∧ core.run n t = .next u := by
  have h2 := coreRun_succ core n s
  cases hs : step s with
  | next t =>
    rw [show core.step s = .next t from hs] at h2
    exact ⟨t, rfl, h2.symm.trans h⟩
  | fault r =>
    rw [show core.step s = .fault r from hs] at h2
    cases h2.symm.trans h
  | refused r =>
    rw [show core.step s = .refused r from hs] at h2
    cases h2.symm.trans h

/-- A run of `m + n` steps is a run of `m` and then a run of `n`. -/
theorem run_add {s t : State} (m n : Nat) (h : core.run m s = .next t) : core.run (m + n) s = core.run n t := by
  induction m generalizing s with
  | zero =>
    cases h
    rw [Nat.zero_add]
  | succ m ih =>
    obtain ⟨u, hs, hr⟩ := run_succ_next h
    rw [Nat.succ_add, run_succ_of_next _ hs]
    exact ih hr

end Sys2Proof.Machine
end

