-- ==== Sys2Proof/Laws/Exec.lean ====
section
/-! SUPPORT. Inversion of `exec` and `step`: what an instruction and a step can do to the pins, the trace and the sink,
said once; and the sequencer's own registers by state. -/

namespace Sys2Proof.Machine

/-- The pins, the trace and the sink agree. -/
structure SameOutputs (s t : State) : Prop where
  pin : t.pin = s.pin
  trace : t.trace = s.trace
  sr : t.sr = s.sr
  out : t.out = s.out
  fault : t.fault = s.fault
  free : t.free = s.free

theorem SameOutputs.refl (s : State) : SameOutputs s s := ⟨rfl, rfl, rfl, rfl, rfl, rfl⟩

theorem advance_sameOutputs (c : Config) (s : State) : SameOutputs s (advance c s) :=
  ⟨by simp, by simp, by simp, by simp, by simp, by simp⟩

/-- An instruction issues no pin event, or exactly one. -/
theorem exec_outputs {i : Instr} {s t : State} (h : exec i s = .next t) :
    SameOutputs s t ∨ ∃ e : PinEvent, SameOutputs (emit Params.chip e.pin e.level s) t := by
  cases i
  case idle => cases h; exact .inl (.refl _)
  case start =>
    change startRefresh _ s = _ at h
    unfold startRefresh at h
    split at h
    · cases h; exact .inl ⟨rfl, rfl, rfl, rfl, rfl, rfl⟩
    · cases h
  case shiftRowPairBits =>
    right
    change execShiftRowPairBits s = _ at h
    unfold execShiftRowPairBits at h
    split at h
    · unfold dataStep at h
      split at h
      · rename_i v _
        cases h; exact ⟨⟨v, .data⟩, rfl, rfl, rfl, rfl, rfl, rfl⟩
      · cases h
    · cases h; exact ⟨⟨false, .clk⟩, rfl, rfl, rfl, rfl, rfl, rfl⟩
    · cases h
      refine ⟨⟨true, .clk⟩, ?_⟩
      have := advance_sameOutputs Params.chip { emit Params.chip .clk true s with ph := .data }
      exact ⟨this.1, this.2, this.3, this.4, this.5, this.6⟩
  case disableLatch => cases h; exact .inr ⟨⟨_, .lat⟩, rfl, rfl, rfl, rfl, rfl, rfl⟩
  case setRowAddress =>
    cases h
    refine .inr ⟨⟨addrBit s.idx s.ab, addrPin s.ab⟩, ?_⟩
    simp only [addressStep]
    split <;> exact ⟨rfl, rfl, rfl, rfl, rfl, rfl⟩
  case enableLatch =>
    cases h
    refine .inr ⟨⟨true, .lat⟩, ?_⟩
    simp only [enableStep]
    split <;> exact ⟨rfl, rfl, rfl, rfl, rfl, rfl⟩
  all_goals
    cases h
    exact .inr ⟨⟨_, _⟩, .refl _⟩

/-- A step issues no pin event; or exactly one; or exactly one from outside while busy, with the mark made first. -/
theorem step_outputs {s t : State} (h : step s = .next t) :
    SameOutputs s t ∨
    (∃ e : PinEvent, SameOutputs (emit Params.chip e.pin e.level s) t) ∨
    (∃ e : PinEvent, s.busy = true ∧
      SameOutputs (emit Params.chip e.pin e.level (raiseProtocol .foreignPinWrite s)) t) := by
  have lift : ∀ (u : State) (e : PinEvent) (inp : List Input),
      SameOutputs (emit Params.chip e.pin e.level { u with inputs := inp }) t →
      SameOutputs (emit Params.chip e.pin e.level u) t := by
    intro u e inp ⟨h1, h2, h3, h4, h5, h6⟩
    have hsr : (emit Params.chip e.pin e.level { u with inputs := inp }).sr = (emit Params.chip e.pin e.level u).sr ∧
        (emit Params.chip e.pin e.level { u with inputs := inp }).out = (emit Params.chip e.pin e.level u).out ∧
        (emit Params.chip e.pin e.level { u with inputs := inp }).fault = (emit Params.chip e.pin e.level u).fault ∧
        (emit Params.chip e.pin e.level { u with inputs := inp }).free = (emit Params.chip e.pin e.level u).free := by
      simp only [emit, sinkReact, drawOut, transfer, commit, monitorCommit, raiseProtocol]
      refine ⟨?_, ?_, ?_, ?_⟩ <;> (repeat' split) <;> simp_all
    exact ⟨by simpa using h1, by simpa using h2, h3.trans hsr.1, h4.trans hsr.2.1, h5.trans hsr.2.2.1,
      h6.trans hsr.2.2.2⟩
  rcases step_cases s with ⟨inp, hs⟩ | ⟨e, inp, hs, -⟩ | ⟨e, inp, hs, hb⟩ | ⟨inp, hs⟩ | ⟨a, v, inp, hs⟩ | ⟨r, hs⟩
  · rw [hs] at h
    rcases exec_outputs h with h1 | ⟨e, h1⟩
    · exact .inl ⟨h1.1, h1.2, h1.3, h1.4, h1.5, h1.6⟩
    · exact .inr (.inl ⟨e, lift _ e _ h1⟩)
  · rw [hs, exec_event] at h
    cases h
    exact .inr (.inl ⟨e, lift _ e inp (.refl _)⟩)
  · rw [hs, exec_event] at h
    cases h
    exact .inr (.inr ⟨e, hb, lift (raiseProtocol .foreignPinWrite s) e inp (.refl _)⟩)
  · rw [hs] at h
    rcases exec_outputs h with h1 | ⟨e, h1⟩
    · exact .inl ⟨h1.1, h1.2, h1.3, h1.4, h1.5, h1.6⟩
    · exact .inr (.inl ⟨e, lift _ e _ h1⟩)
  · rw [hs] at h
    unfold hostWrite at h
    split at h <;> cases h <;> exact .inl ⟨rfl, rfl, rfl, rfl, rfl, rfl⟩
  · rw [hs] at h; cases h

/-- What an event does to the pins and the sink, in one statement (R130, R201, R203, R209). -/
theorem emit_outputs (e : PinEvent) (s : State) :
    let t := emit Params.chip e.pin e.level s
    let rise := e = ⟨true, .clk⟩ ∧ level s.pin .clk = false
    let enable := e = ⟨true, .lat⟩ ∧ level s.pin .lat = false
    t.pin = setLevel s.pin e.pin e.level ∧ t.trace = s.trace ++ [e] ∧
    (rise → t.sr = shiftIn s.sr (level s.pin .data)) ∧ (¬ rise → t.sr = s.sr) ∧
    (rise ∧ level s.pin .lat = true → t.fault = some (s.fault.getD .shiftWhileLatched)) ∧
    (¬ (rise ∧ level s.pin .lat = true) → t.fault = s.fault) ∧
    (t.fault = none → t.out = if enable then s.sr else s.out) := by
  obtain ⟨v, p⟩ := e
  dsimp only
  have hq : ∀ o, (s.afterEvent ⟨v, p⟩ (setLevel s.pin p v) o).fault = none →
      (s.afterEvent ⟨v, p⟩ (setLevel s.pin p v) o).out = o := by
    intro o h
    simp only [State.afterEvent] at h ⊢
    rw [if_pos h]
  by_cases hr : v = true ∧ p = .clk ∧ level s.pin .clk = false
  · obtain ⟨rfl, rfl, hc⟩ := hr
    cases hl : level s.pin .lat
    · rw [emit_clk_rise s hc hl]
      refine ⟨rfl, rfl, fun _ => rfl, fun h => absurd ⟨rfl, hc⟩ h, fun h => absurd h.2 (by simp), fun _ => rfl, ?_⟩
      intro h
      rw [if_neg (by simp)]
      exact hq _ h
    · rw [emit_clk_rise_latched s hc hl]
      exact ⟨rfl, rfl, fun _ => rfl, fun h => absurd ⟨rfl, hc⟩ h, fun _ => rfl,
        fun h => absurd ⟨⟨rfl, hc⟩, rfl⟩ h, fun h => by simp at h⟩
  · have hr' : ¬ ((⟨v, p⟩ : PinEvent) = ⟨true, .clk⟩ ∧ level s.pin .clk = false) := by
      rintro ⟨h1, h2⟩
      cases h1
      exact hr ⟨rfl, rfl, h2⟩
    by_cases he : v = true ∧ p = .lat ∧ level s.pin .lat = false
    · obtain ⟨rfl, rfl, hl⟩ := he
      rw [emit_lat_rise s hl]
      refine ⟨rfl, rfl, fun h => absurd h hr', fun _ => rfl, fun h => absurd h.1 hr', fun _ => rfl, fun h => ?_⟩
      rw [if_pos ⟨rfl, hl⟩]
      exact hq _ h
    · have he' : ¬ ((⟨v, p⟩ : PinEvent) = ⟨true, .lat⟩ ∧ level s.pin .lat = false) := by
        rintro ⟨h1, h2⟩
        cases h1
        exact he ⟨rfl, rfl, h2⟩
      rw [emit_quiet p v s (fun h1 h2 => by
        cases hc : level s.pin .clk
        · exact absurd ⟨h2, h1, hc⟩ hr
        · rfl) (fun h1 h2 => by
        cases hc : level s.pin .lat
        · exact absurd ⟨h2, h1, hc⟩ he
        · rfl)]
      refine ⟨rfl, rfl, fun h => absurd h hr', fun _ => rfl, fun h => absurd h.1 hr', fun _ => rfl, fun h => ?_⟩
      rw [if_neg he']
      exact hq _ h

end Sys2Proof.Machine
end

