-- ==== Sys2Proof/Laws/PerInstr.lean ====
section
/-! SUPPORT. Statements per instruction: every instruction is well-formed and its code word names an operation (R104,
R109). -/

namespace Sys2Proof.Laws

/-- The instruction is well-formed, and so is the word that encodes it. -/
def EncodesWell.Statement (i : Instr) : Prop := i.wellFormed = true ∧ (encode i).wellFormed = true

theorem EncodesWell.clrData : EncodesWell.Statement .clrData := ⟨rfl, rfl⟩
theorem EncodesWell.clrClk : EncodesWell.Statement .clrClk := ⟨rfl, rfl⟩
theorem EncodesWell.clrLat : EncodesWell.Statement .clrLat := ⟨rfl, rfl⟩
theorem EncodesWell.clrA8 : EncodesWell.Statement .clrA8 := ⟨rfl, rfl⟩
theorem EncodesWell.clrA4 : EncodesWell.Statement .clrA4 := ⟨rfl, rfl⟩
theorem EncodesWell.clrA2 : EncodesWell.Statement .clrA2 := ⟨rfl, rfl⟩
theorem EncodesWell.clrA1 : EncodesWell.Statement .clrA1 := ⟨rfl, rfl⟩
theorem EncodesWell.setData : EncodesWell.Statement .setData := ⟨rfl, rfl⟩
theorem EncodesWell.setClk : EncodesWell.Statement .setClk := ⟨rfl, rfl⟩
theorem EncodesWell.setLat : EncodesWell.Statement .setLat := ⟨rfl, rfl⟩
theorem EncodesWell.setA8 : EncodesWell.Statement .setA8 := ⟨rfl, rfl⟩
theorem EncodesWell.setA4 : EncodesWell.Statement .setA4 := ⟨rfl, rfl⟩
theorem EncodesWell.setA2 : EncodesWell.Statement .setA2 := ⟨rfl, rfl⟩
theorem EncodesWell.setA1 : EncodesWell.Statement .setA1 := ⟨rfl, rfl⟩
theorem EncodesWell.idle : EncodesWell.Statement .idle := ⟨rfl, rfl⟩
theorem EncodesWell.disableLatch : EncodesWell.Statement .disableLatch := ⟨rfl, rfl⟩
theorem EncodesWell.shiftRowPairBits : EncodesWell.Statement .shiftRowPairBits := ⟨rfl, rfl⟩
theorem EncodesWell.setRowAddress : EncodesWell.Statement .setRowAddress := ⟨rfl, rfl⟩
theorem EncodesWell.enableLatch : EncodesWell.Statement .enableLatch := ⟨rfl, rfl⟩
theorem EncodesWell.start : EncodesWell.Statement .start := ⟨rfl, rfl⟩

end Sys2Proof.Laws
end

