-- ==== Sys2Proof/Tests/Slice0.lean ====
section
/-! SUPPORT. Tests: the words of the spec's encodings, the vectors of spec/95_test_vectors.md (their names in each
comment), each about one step, and a witness for every statement that has hypotheses. -/

namespace Sys2Proof.Tests

open Sys2Proof.Machine

/-! ## Helpers -/

/-- `PIN` as the spec's vectors write it: DATA CLK LAT A8 A4 A2 A1. -/
def pins (d c l a8 a4 a2 a1 : Nat) : PinReg :=
  BitVec.ofNat 7 (d + 2 * c + 4 * l + 8 * a8 + 16 * a4 + 32 * a2 + 64 * a1)

/-- Reset with given pins. -/
def withPins (r : PinReg) : State := { State.reset with pin := r }

/-- Reset with given pins, chain and output stage. -/
def sink (r : PinReg) (sr out : Chain) : State := { State.reset with pin := r, sr := sr, out := out }

/-- A field of the next state, if there is one. -/
def after {α : Type} (f : State → α) : Result → Option α
  | .next t => some (f t)
  | .fault _ => none
  | .refused _ => none

/-- `n` cells from address `lo` on, all holding `v`. -/
def solidFrom (v : Pixel) : Nat → Nat → Memory
  | _, 0 => []
  | lo, n + 1 => (lo, v) :: solidFrom v (lo + 1) n

/-- A frame buffer whose 1024 cells all hold `v`. -/
def solid (v : Pixel) : Memory := solidFrom v 0 1024

theorem solidFrom_read (v : Pixel) {lo n a : Nat} (h1 : lo ≤ a) (h2 : a < lo + n) :
    (solidFrom v lo n).read a = some v := by
  induction n generalizing lo with
  | zero => omega
  | succ n ih =>
    simp only [solidFrom, Memory.read]
    split
    · rfl
    · exact ih (by omega) (by omega)

theorem solid_read (v : Pixel) {a : Nat} (h : a < 1024) : (solid v).read a = some v :=
  solidFrom_read v (Nat.zero_le _) (by omega)

theorem solid_complete (v : Pixel) : (solid v).complete := fun a h => by simp [solid_read v h]

theorem solidFrom_wf (v : Pixel) {lo n : Nat} (h : lo + n ≤ 1024) : Memory.wfFrom lo (solidFrom v lo n) = true := by
  induction n generalizing lo with
  | zero => rfl
  | succ n ih =>
    have h2 : Memory.wfFrom (lo + 1) (solidFrom v (lo + 1) n) = true := ih (by omega)
    simp only [solidFrom, Memory.wfFrom, h2]
    simp
    omega

theorem solid_wf (v : Pixel) : (solid v).wf = true := solidFrom_wf v (by omega)

/-- Row index 10 in the middle of a refresh of a white frame. -/
def busyAt (q : SeqState) : State := { State.reset with st := q, busy := true, idx := 10#4, fb := solid 7#3 }

/-- A shift state at given counters. -/
def shiftingAt (half : BitVec 1) (ch : Channel) (col : BitVec 5) (ph : Phase) : State :=
  { State.reset with st := .shiftRowPairBits, busy := true, idx := 10#4, half := half, ch := ch, col := col, ph := ph }

/-- Idle, a white frame and `START` given. -/
def started : State := { State.reset with fb := solid 7#3, inputs := [.host (.cmd 1#1)] }

/-! ## Well-formedness: a term that each check refuses -/

theorem test_wf_event_7 : (CodeWord.event 0x7#4).wellFormed = false := by decide
theorem test_wf_event_F : (CodeWord.event 0xF#4).wellFormed = false := by decide
theorem test_wf_state_5 : (CodeWord.state 5#3).wellFormed = false := by decide
theorem test_wf_request_0 : (CodeWord.cmd 0#1).wellFormed = false := by decide
theorem test_wf_memory_order : Memory.wf [(3, 0#3), (3, 1#3)] = false := by decide
theorem test_wf_memory_range : Memory.wf [(1024, 0#3)] = false := by decide

/-! ## Decoding: words written out from R102, R103, R109 -/

theorem test_decode_clrData : decode (.event 0b0000#4) = .ok .clrData := by rfl
theorem test_decode_clrClk : decode (.event 0b0001#4) = .ok .clrClk := by rfl
theorem test_decode_clrLat : decode (.event 0b0010#4) = .ok .clrLat := by rfl
theorem test_decode_clrA8 : decode (.event 0b0011#4) = .ok .clrA8 := by rfl
theorem test_decode_clrA4 : decode (.event 0b0100#4) = .ok .clrA4 := by rfl
theorem test_decode_clrA2 : decode (.event 0b0101#4) = .ok .clrA2 := by rfl
theorem test_decode_clrA1 : decode (.event 0b0110#4) = .ok .clrA1 := by rfl
theorem test_decode_setData : decode (.event 0b1000#4) = .ok .setData := by rfl
theorem test_decode_setClk : decode (.event 0b1001#4) = .ok .setClk := by rfl
theorem test_decode_setLat : decode (.event 0b1010#4) = .ok .setLat := by rfl
theorem test_decode_setA8 : decode (.event 0b1011#4) = .ok .setA8 := by rfl
theorem test_decode_setA4 : decode (.event 0b1100#4) = .ok .setA4 := by rfl
theorem test_decode_setA2 : decode (.event 0b1101#4) = .ok .setA2 := by rfl
theorem test_decode_setA1 : decode (.event 0b1110#4) = .ok .setA1 := by rfl
theorem test_decode_idle : decode (.state 0b000#3) = .ok .idle := by rfl
theorem test_decode_disableLatch : decode (.state 0b001#3) = .ok .disableLatch := by rfl
theorem test_decode_shiftRowPairBits : decode (.state 0b010#3) = .ok .shiftRowPairBits := by rfl
theorem test_decode_setRowAddress : decode (.state 0b011#3) = .ok .setRowAddress := by rfl
theorem test_decode_enableLatch : decode (.state 0b100#3) = .ok .enableLatch := by rfl
theorem test_decode_start : decode (.cmd 0b1#1) = .ok .start := by rfl

/-- The address words of index 10 are `B4D6` (S2). -/
theorem test_setAddr_10 : (setAddr 10).map PinEvent.word = [0xB#4, 0x4#4, 0xD#4, 0x6#4] := by decide

/-- The table's numbering, in the widths the table gives. -/
theorem test_table_word : decodeTableWord 4 9 = some .setClk ∧ decodeTableWord 3 4 = some .enableLatch ∧
    decodeTableWord 1 1 = some .start ∧ decodeTableWord 4 7 = none ∧ decodeTableWord 3 5 = none := by decide

/-! ## Pin operations: V-P1 to V-P17 -/

theorem test_setData_VP1 : after (·.pin) (exec .setData (withPins (pins 0 1 0 0 0 0 0))) = some (pins 1 1 0 0 0 0 0) := by decide
theorem test_clrData_VP3 : after (·.pin) (exec .clrData (withPins (pins 1 1 0 0 0 0 0))) = some (pins 0 1 0 0 0 0 0) := by decide
theorem test_clrClk_VP4 : after (·.pin) (exec .clrClk (withPins (pins 1 1 0 0 0 0 0))) = some (pins 1 0 0 0 0 0 0) := by decide
/-- V-P5, V-K12. -/
theorem test_setClk_VP5 : after (fun t => (t.pin, t.sr, t.fault)) (exec .setClk (sink (pins 1 0 0 0 0 0 0) 0 0)) =
    some (pins 1 1 0 0 0 0 0, 1#192, none) := by decide
/-- V-K11. -/
theorem test_setClk_VK11 : after (·.fault) (exec .setClk (sink (pins 1 0 1 0 0 0 0) 0 0)) = some (some .shiftWhileLatched) := by decide
theorem test_clrLat_VP8 : after (fun t => (t.pin, t.out)) (exec .clrLat (sink (pins 0 1 1 1 1 1 1) 5 9)) =
    some (pins 0 1 0 1 1 1 1, 9#192) := by decide
/-- V-P9, V-K5. -/
theorem test_setLat_VP9 : after (fun t => (t.pin, t.out, addr t)) (exec .setLat (sink (pins 0 1 0 1 0 1 0) 5 9)) =
    some (pins 0 1 1 1 0 1 0, 5#192, 10#4) := by decide
/-- V-K6. -/
theorem test_setLat_VK6 : after (·.out) (exec .setLat (sink (pins 0 1 1 1 0 1 0) 5 9)) = some 9#192 := by decide
theorem test_setA8_VP10 : after (fun t => (t.pin, addr t)) (exec .setA8 (withPins (pins 0 1 0 0 1 1 1))) =
    some (pins 0 1 0 1 1 1 1, 15#4) := by decide
theorem test_clrA8_VP11 : after (fun t => (t.pin, addr t)) (exec .clrA8 (withPins (pins 0 1 0 1 1 1 1))) =
    some (pins 0 1 0 0 1 1 1, 7#4) := by decide
theorem test_setA4_VP12 : after (fun t => (t.pin, addr t)) (exec .setA4 (withPins (pins 0 1 0 0 0 1 1))) =
    some (pins 0 1 0 0 1 1 1, 7#4) := by decide
theorem test_clrA4_VP13 : after (fun t => (t.pin, addr t)) (exec .clrA4 (withPins (pins 0 1 0 1 1 1 1))) =
    some (pins 0 1 0 1 0 1 1, 11#4) := by decide
theorem test_setA2_VP14 : after (fun t => (t.pin, addr t)) (exec .setA2 (withPins (pins 0 1 0 0 0 0 1))) =
    some (pins 0 1 0 0 0 1 1, 3#4) := by decide
theorem test_clrA2_VP15 : after (fun t => (t.pin, addr t)) (exec .clrA2 (withPins (pins 0 1 0 1 0 1 1))) =
    some (pins 0 1 0 1 0 0 1, 9#4) := by decide
theorem test_setA1_VP16 : after (fun t => (t.pin, addr t)) (exec .setA1 (withPins (pins 0 1 0 0 0 0 0))) =
    some (pins 0 1 0 0 0 0 1, 1#4) := by decide
theorem test_clrA1_VP17 : after (fun t => (t.pin, addr t)) (exec .clrA1 (withPins (pins 0 1 0 1 0 0 1))) =
    some (pins 0 1 0 1 0 0 0, 8#4) := by decide

/-- V-K2: the old top bit is lost. -/
theorem test_shift_loses_top_VK2 : shiftIn (1#192 <<< 191) false = 0#192 := by decide

/-! ## The five states and START: V-S9 to V-S15, V-W11, V-W15 to V-W17 -/

/-- The counters after a step. -/
def counters (t : State) : BitVec 1 × Channel × BitVec 5 × Phase × SeqState := (t.half, t.ch, t.col, t.ph, t.st)

theorem test_clockHigh_VS12 : after counters (exec .shiftRowPairBits (shiftingAt 1#1 .red 31#5 .clkHigh)) =
    some (0#1, .blue, 0#5, .data, .setRowAddress) := by decide
/-- V-S13, V-S14, V-S15. -/
theorem test_cell_addresses : (cellAddr Params.chip 10#4 1#1 5#5).toNat = 837 ∧
    (cellAddr Params.chip 15#4 1#1 31#5).toNat = 1023 ∧ (cellAddr Params.chip 0#4 0#1 0#5).toNat = 0 := by decide
/-- The green bit of `FB[26][5]` (P3). -/
theorem test_dataStep_P3 : after (fun t => (t.trace, t.ph))
    (exec .shiftRowPairBits { shiftingAt 1#1 .green 5#5 .data with fb := [(837, 2#3)] }) =
    some ([⟨true, .data⟩], .clkLow) := by decide
theorem test_disableLatch : after counters (exec .disableLatch (shiftingAt 1#1 .red 9#5 .clkLow)) =
    some (0#1, .blue, 0#5, .data, .shiftRowPairBits) := by decide
theorem test_disableLatch_event : after (·.trace) (exec .disableLatch State.reset) = some [⟨false, .lat⟩] := by decide
/-- Index 10, `AB = 2`: `SET A2`, "2:on" (S2). -/
theorem test_setRowAddress_S2 : after (fun t => (t.trace, t.ab, t.st))
    (exec .setRowAddress { busyAt .setRowAddress with ab := 2#2 }) = some ([⟨true, .a2⟩], 3#2, .setRowAddress) := by decide
/-- V-W11. -/
theorem test_enableLatch_VW11 : after (fun t => (t.trace, t.idx, t.st, t.busy))
    (exec .enableLatch { busyAt .enableLatch with idx := 0#4 }) = some ([⟨true, .lat⟩], 1#4, .disableLatch, true) := by decide
/-- V-W15. -/
theorem test_enableLatch_VW15 : after (fun t => (t.trace, t.idx, t.st, t.busy))
    (exec .enableLatch { busyAt .enableLatch with idx := 15#4 }) = some ([⟨true, .lat⟩], 0#4, .idle, false) := by decide
/-- V-W16. -/
theorem test_start_VW16 : after (fun t => (t.st, t.idx, t.busy, t.trace)) (exec .start State.reset) =
    some (.disableLatch, 0#4, true, []) := by decide
/-- V-W17. -/
theorem test_start_VW17 : exec .start (busyAt .enableLatch) = .refused .startWhileBusy := by rfl
/-- V-W18. -/
theorem test_idle_VW18 : step State.reset = .next State.reset := by rfl
/-! ## Serial frame, closed form, visibility -/

/-- V-S7's first two groups, `55000000` and `33000000`: row 3 with `FB[3][c] = c` for c = 0..7. -/
theorem test_serial_VS7 :
    let f := Memory.frame ((List.range 8).map fun c => (96 + c, BitVec.ofNat 3 c))
    (List.range 8).map (serialBit Params.chip f 3) = [false, true, false, true, false, true, false, true] ∧
    (List.range 8).map (fun b => serialBit Params.chip f 3 (32 + b)) =
      [false, false, true, true, false, false, true, true] := by decide
/-- V-W14 on the frame of P3: word `8` at K = 6220. -/
theorem test_event_VW14 : refreshEvent Params.chip (Memory.frame [(837, 2#3)]) 6220 = ⟨true, .data⟩ := by decide
/-- V-W1, V-W9, V-W10, V-W15. -/
theorem test_events_VW : (refreshEvent Params.chip (Memory.frame []) 0).word = 0x2#4 ∧
    (refreshEvent Params.chip (Memory.frame []) 577).word = 0x3#4 ∧
    (refreshEvent Params.chip (Memory.frame []) 580).word = 0x6#4 ∧
    (refreshEvent Params.chip (Memory.frame []) 9311).word = 0xA#4 := by decide
/-- V-K9, V-K10: the same output stage on row pairs 10 and 11. -/
theorem test_lit_VK9 :
    let out : Chain := 1#192 <<< 191 ||| 1#192
    lit (sink (pins 0 1 1 1 0 1 0) 0 out) 10 0 .blue = true ∧ lit (sink (pins 0 1 1 1 0 1 0) 0 out) 26 31 .red = true ∧
    lit (sink (pins 0 1 1 1 0 1 0) 0 out) 11 0 .blue = false ∧ lit (sink (pins 0 1 1 1 0 1 1) 0 out) 11 0 .blue = true := by
  decide

/-! ## Witnesses: for every statement with hypotheses, a state and operands that meet them -/

theorem witness_TableWordsDecode : 4 < (5#3).toNat ∧ 4 < (7#3).toNat := by decide
theorem witness_DecodeEncodeAgree : decode (.event 0xA#4) = .ok .setLat ∧ ∃ r, decode (.state 7#3) = .error r :=
  ⟨rfl, _, rfl⟩
theorem witness_TraceWordsRoundTrip : decodeTrace [0x8#4, 0x1#4, 0x9#4] = .ok [⟨true, .data⟩, ⟨false, .clk⟩, ⟨true, .clk⟩] := rfl
theorem witness_MemoryReadWrite : (1023 : Nat) ≠ (0#10).toNat ∧ (solid 7#3).wf = true := ⟨by decide, solid_wf _⟩
theorem witness_BlockNeverWritesFrameBuffer :
    (∃ t, exec .setData started = .next t) ∧
    ∃ t, step { started with inputs := [.host (.write 1023#10 7#3)] } = .next t := ⟨⟨_, rfl⟩, _, rfl⟩
theorem witness_HostWriteOnlyWhenIdle :
    (State.reset.busy = false ∧ ({ State.reset with inputs := [.host (.write 0#10 1#3)] } : State).inputs = .host (.write 0#10 1#3) :: []) ∧
    ((busyAt .enableLatch).busy = true ∧
      ({ busyAt .enableLatch with inputs := [.forced (.write 1023#10 1#3)] } : State).inputs = .forced (.write 1023#10 1#3) :: []) :=
  ⟨⟨rfl, rfl⟩, rfl, rfl⟩
theorem witness_PinOperationsShare : (Pin.clk : Pin) ≠ .data ∧
    level (withPins (pins 1 0 0 0 0 0 0)).pin .data = true ∧ State.reset.fault = none := ⟨by decide, rfl, rfl⟩
theorem witness_ClockLineOperations :
    level (pins 0 1 0 0 0 0 0) .clk = true ∧
    (level (pins 0 0 0 0 0 0 0) .clk = false ∧ level (pins 0 0 0 0 0 0 0) .lat = false) := by decide
theorem witness_ShiftWhileLatchedFaults :
    level (withPins (pins 0 0 1 0 0 0 0)).pin .clk = false ∧ level (withPins (pins 0 0 1 0 0 0 0)).pin .lat = true := by decide
theorem witness_LatchLineOperations :
    level (withPins (pins 0 0 1 0 0 0 0)).pin .lat = true ∧ level (withPins (pins 0 0 0 0 0 0 0)).pin .lat = false := by decide
theorem witness_IdleHolds : State.reset.st = .idle ∧ State.reset.inputs = [] ∧ State.reset.Inv ∧
    started.st = .idle ∧ ∃ t, step started = .next t ∧ t.st ≠ .idle := ⟨rfl, rfl, by decide, rfl, _, rfl, by decide⟩
theorem witness_StartBeginsRefresh : State.reset.st = .idle ∧ State.reset.inputs = [] := ⟨rfl, rfl⟩
theorem witness_StartWhileBusyRefused :
    (busyAt .disableLatch).st ≠ .idle ∧
    ({ busyAt .disableLatch with inputs := [.forced (.cmd 1#1)] } : State).inputs = .forced (.cmd 1#1) :: [] := ⟨by decide, rfl⟩

theorem witness_HostMovesNeverTouchPins :
    let s := { started with inputs := [.host (.write 0#10 7#3)] }
    s.busy = false ∧ s.st = .idle ∧ s.inputs = .host (.write 0#10 7#3) :: [] ∧ (∃ t, step s = .next t) ∧
    (started.busy = false ∧ ∃ t, step started = .next t) ∧
    State.reset.Inv ∧ hostRead (busyAt .enableLatch) = true := ⟨rfl, rfl, rfl, ⟨_, rfl⟩, ⟨rfl, _, rfl⟩, by decide, rfl⟩

/-- The first and the last read of a refresh (V-S15, V-S14). -/
theorem witness_DataStepSendsCellBit :
    (let s := { shiftingAt 0#1 .blue 0#5 .data with idx := 0#4, fb := solid 7#3 }
     s.ph = .data ∧ s.fb.read (32 * (16 * s.half.toNat + s.idx.toNat) + s.col.toNat) = some 7#3) ∧
    (let s := { shiftingAt 1#1 .red 31#5 .data with idx := 15#4, fb := solid 0#3 }
     s.ph = .data ∧ s.fb.read (32 * (16 * s.half.toNat + s.idx.toNat) + s.col.toNat) = some 0#3) :=
  ⟨⟨rfl, solid_read _ (by decide)⟩, rfl, solid_read _ (by decide)⟩
theorem witness_UnwrittenCellFaults :
    let s := shiftingAt 1#1 .red 31#5 .data
    s.ph = .data ∧ s.fb.read (32 * (16 * s.half.toNat + s.idx.toNat) + s.col.toNat) = none := by decide
theorem witness_ClockLowStep : (shiftingAt 1#1 .red 31#5 .clkLow).ph = .clkLow := rfl
theorem witness_ClockHighStep : (shiftingAt 1#1 .red 31#5 .clkHigh).ph = .clkHigh := rfl
theorem witness_OnlyTwoStops :
    exec .shiftRowPairBits (shiftingAt 0#1 .blue 0#5 .data) = .fault (.unwrittenCell 320#10) ∧
    exec .start (busyAt .enableLatch) = .refused .startWhileBusy := ⟨rfl, rfl⟩

/-- A state from which a step makes a rising edge of `CLK`, and one from which a step makes none. -/
theorem witness_ChainShiftsOnlyOnRisingClock :
    (∃ t, step (shiftingAt 0#1 .blue 0#5 .clkHigh) = .next t ∧
      level (shiftingAt 0#1 .blue 0#5 .clkHigh).pin .clk = false ∧ level t.pin .clk = true) ∧
    ∃ t, step (shiftingAt 0#1 .blue 0#5 .clkLow) = .next t := ⟨⟨_, rfl, rfl, rfl⟩, _, rfl⟩
theorem witness_OutputChangesOnlyOnLatchEnable :
    ∃ t, step (busyAt .enableLatch) = .next t ∧ t.fault = none ∧ level (busyAt .enableLatch).pin .lat = false ∧
      level t.pin .lat = true := ⟨_, rfl, rfl, rfl, rfl⟩
theorem witness_FaultIsSticky :
    let s := { busyAt .enableLatch with fault := some .foreignPinWrite }
    s.fault = some .foreignPinWrite ∧ ∃ t, step s = .next t := ⟨rfl, _, rfl⟩
theorem witness_FaultOnlyOnLatchedShift :
    ∃ t, exec .setClk (withPins (pins 0 0 1 0 0 0 0)) = .next t ∧ t.fault = some .shiftWhileLatched := ⟨_, rfl, rfl⟩
theorem witness_ForeignPinWriteFaults :
    let s := { busyAt .enableLatch with inputs := [.foreign (PinEvent.word ⟨true, .a1⟩)] }
    s.busy = true ∧ s.inputs = .foreign (PinEvent.word ⟨true, .a1⟩) :: [] := ⟨rfl, rfl⟩
theorem witness_StateTransitions :
    (∃ t, exec .start State.reset = .next t) ∧
    ∃ t, exec (SeqState.instr .shiftRowPairBits) (shiftingAt 1#1 .red 31#5 .clkHigh) = .next t ∧ t.st = .setRowAddress :=
  ⟨⟨_, rfl⟩, _, rfl, rfl⟩
theorem witness_SinkCannotInfluenceSequencer :
    (busyAt .enableLatch).SameButSink { busyAt .enableLatch with sr := 1#192, out := 2#192, fault := some .shiftWhileLatched } ∧
    ∃ t, step (busyAt .enableLatch) = .next t :=
  ⟨⟨⟨rfl, rfl, rfl, rfl, rfl, rfl, rfl⟩, rfl, rfl, rfl, rfl, rfl⟩, _, rfl⟩

/-- A busy state that meets the invariants, with its step: for StepKeepsReachableValues, StepKeepsLatchDisabled and
SequencerNeverFaults. -/
theorem witness_invariants :
    (busyAt .enableLatch).Inv ∧ (busyAt .enableLatch).LatchInv ∧ ∃ t, step (busyAt .enableLatch) = .next t := by
  refine ⟨⟨solid_wf _, by decide, ?_, ?_, ?_⟩, fun _ _ => rfl, _, rfl⟩
  · intro _; exact ⟨rfl, rfl, rfl, rfl⟩
  · intro _; rfl
  · intro h; cases h
theorem witness_StepKeepsPinsFollowTrace :
    let s := { State.reset with inputs := [.foreign 0x8#4] }
    s.PinsFollowTrace ∧ ∃ t, step s = .next t ∧ t.trace = [⟨true, .data⟩] := ⟨rfl, _, rfl, rfl⟩
theorem witness_SequencerNeverFaults :
    (busyAt .enableLatch).fault = none ∧ (busyAt .enableLatch).inputs = [] ∧
    ∃ t, core.run 1 (busyAt .enableLatch) = .next t := ⟨rfl, rfl, _, rfl⟩
theorem witness_ShiftingIsInvisible :
    let s := shiftingAt 0#1 .blue 0#5 .clkHigh
    s.fault = none ∧ s.LatchInv ∧ s.inputs = [] ∧ (s.st = .disableLatch ∨ s.st = .shiftRowPairBits) ∧ ∃ t, step s = .next t :=
  ⟨rfl, fun _ _ => rfl, rfl, .inr rfl, _, rfl⟩
theorem witness_StepRunsDecodedWord :
    ({ busyAt .enableLatch with inputs := [.host (.cmd 1#1)] } : State).busy = true ∧
    decode (.event 0xE#4) = .ok .setA1 ∧ decode (.event 0xF#4) = .error (.reservedPin true) ∧
    started.inputs = .host (.cmd 1#1) :: [] ∧ started.busy = false ∧
    ({ busyAt .enableLatch with inputs := [.foreign 0xE#4] } : State).inputs = .foreign 0xE#4 :: [] :=
  ⟨rfl, rfl, rfl, rfl, rfl, rfl⟩
theorem witness_PlacedWordRunsNext : decodeTableWord 4 14 = some .setA1 ∧ decodeTableWord 3 4 = some .enableLatch ∧
    decodeTableWord 1 1 = some .start := by decide
theorem witness_ShiftBitInThreeSteps :
    let s := { shiftingAt 1#1 .red 31#5 .data with fb := solid 4#3 }
    s.st = .shiftRowPairBits ∧ s.ph = .data ∧ s.inputs = [] ∧ s.fault = none ∧ level s.pin .lat = false ∧
      s.fb.read (32 * (16 * s.half.toNat + s.idx.toNat) + s.col.toNat) = some 4#3 :=
  ⟨rfl, rfl, rfl, rfl, rfl, solid_read _ (by decide)⟩
theorem witness_AddressLinesChangeMsbFirst :
    let s := busyAt .setRowAddress
    s.st = .setRowAddress ∧ s.ab = 0#2 ∧ s.inputs = [] ∧ s.fault = none ∧ 4 ≤ 4 := ⟨rfl, rfl, rfl, rfl, Nat.le_refl _⟩
theorem witness_DecoderSelectsOne : (15 : Nat) < 16 ∧ (31 : Nat) < 32 ∧ selected State.reset 0 = true := by decide
theorem witness_LitFollowsOutputStage : (31 : Nat) < 32 ∧ (31 : Nat) ≠ (addr State.reset).toNat ∧
    (31 : Nat) ≠ (addr State.reset).toNat + 16 := by decide
theorem witness_PositionDeterminesRegisters : (busyAt .enableLatch).Inv ∧ (busyAt .enableLatch).busy = true ∧
    position { busyAt .enableLatch with idx := 15#4 } = 9311 := ⟨witness_invariants.1, rfl, rfl⟩

/-- Both cases of the step statement: the last position, and one before it. -/
theorem witness_StepEmitsEventAtPosition :
    (busyAt .enableLatch).Inv ∧ (busyAt .enableLatch).busy = true ∧ (busyAt .enableLatch).inputs = [] ∧
    (busyAt .enableLatch).fb.complete ∧ position (busyAt .enableLatch) ≠ 9311 ∧
    ({ busyAt .enableLatch with idx := 15#4 } : State).Inv ∧ position { busyAt .enableLatch with idx := 15#4 } = 9311 := by
  refine ⟨witness_invariants.1, rfl, rfl, solid_complete _, by decide, ⟨solid_wf _, by decide, ?_, ?_, ?_⟩, rfl⟩
  · intro _; exact ⟨rfl, rfl, rfl, rfl⟩
  · intro _; rfl
  · intro h; cases h
/-- Also for the hypotheses of PinsAfterRefresh. -/
theorem witness_RefreshTraceIsClosedForm :
    started.st = .idle ∧ started.busy = false ∧ started.inputs = [.host (.cmd 1#1)] ∧ started.fb.complete ∧
    started.fb.read 1023 = some 7#3 ∧ started.fault = none :=
  ⟨rfl, rfl, rfl, solid_complete _, solid_read _ (by decide), rfl⟩
theorem witness_ShiftPairFillsChain :
    let s := busyAt .shiftRowPairBits
    s.st = .shiftRowPairBits ∧ s.half = 0#1 ∧ s.ch = .blue ∧ s.col = 0#5 ∧ s.ph = .data ∧ s.inputs = [] ∧ s.fault = none ∧
      level s.pin .lat = false ∧ s.fb.complete := ⟨rfl, rfl, rfl, rfl, rfl, rfl, rfl, rfl, solid_complete _⟩
theorem witness_RowCycleShowsItsRows :
    let s := busyAt .disableLatch
    s.st = .disableLatch ∧ s.inputs = [] ∧ s.fault = none ∧ s.fb.complete := ⟨rfl, rfl, rfl, solid_complete _⟩
theorem witness_EveryBitSentOnce :
    (31 : Nat) < 32 ∧ ∀ f : Frame, refreshEvent Params.chip f 9304 = ⟨f 31 31 .red, .data⟩ := ⟨by decide, fun _ => rfl⟩
theorem witness_RefreshOrderingGuarantees :
    (∀ f : Frame, refreshEvent Params.chip f 3 = ⟨true, .clk⟩) ∧
    (∀ f : Frame, (refreshEvent Params.chip f 9304).pin = .data) ∧ (15 : Nat) < 16 := ⟨fun _ => rfl, fun _ => rfl, by decide⟩
theorem witness_ParametersPermuteSerialFrame : (191 : Nat) < 192 := by decide

end Sys2Proof.Tests
end

section
/-! SUPPORT. `ADDR` as a view of the pin register (R33). -/

namespace Sys2Proof.Machine

/-- `ADDR` by its weights (R33): each line appended at the bottom doubles the value of those above it. -/
theorem addr_toNat (s : State) :
    (addr s).toNat = 8 * (level s.pin .a8).toNat + 4 * (level s.pin .a4).toNat + 2 * (level s.pin .a2).toNat
      + (level s.pin .a1).toNat := by
  have append_bit {w : Nat} (x : BitVec w) (b : Bool) : (x ++ BitVec.ofBool b).toNat = x.toNat * 2 + b.toNat :=
    BitVec.toNat_concat x b
  rw [addr, append_bit, append_bit, append_bit, BitVec.toNat_ofBool]
  omega

/-- The address lines are pins 3 to 6 (R28), so `ADDR` is these bits of `PIN` with pin 3 on top (R33). -/
theorem addr_eq_pin_bits (s : State) :
    addr s = BitVec.ofBool (s.pin.getLsbD 3) ++ BitVec.ofBool (s.pin.getLsbD 4) ++ BitVec.ofBool (s.pin.getLsbD 5)
      ++ BitVec.ofBool (s.pin.getLsbD 6) := rfl

/-- Settles O7: the weights come from appending one line after another, the bit numbers from the pins' numbers. -/
theorem addrIsViewOfPins : Obligations.AddrIsViewOfPins :=
  fun s => ⟨addr_toNat s, addr_eq_pin_bits s⟩

end Sys2Proof.Machine
end

section
/-! SUPPORT. The frame of the frame buffer (R63, R71): no operation of the block writes it, and a write of the host does so
only while `BUSY = 0`. -/

namespace Sys2Proof.Machine

/-! ## The block's own operations leave the frame buffer -/

@[simp] theorem clockLowStep_fb (c : Config) (s : State) : (clockLowStep c s).fb = s.fb := by
  simp [clockLowStep]

@[simp] theorem clockHighStep_fb (c : Config) (s : State) : (clockHighStep c s).fb = s.fb := by
  simp [clockHighStep]

@[simp] theorem disableStep_fb (c : Config) (s : State) : (disableStep c s).fb = s.fb := by
  simp [disableStep]

@[simp] theorem addressStep_fb (c : Config) (s : State) : (addressStep c s).fb = s.fb := by
  unfold addressStep; split <;> simp

@[simp] theorem enableStep_fb (c : Config) (s : State) : (enableStep c s).fb = s.fb := by
  unfold enableStep; split <;> simp

@[simp] theorem monitorForeign_fb (w : CodeWord) (s : State) : (monitorForeign w s).fb = s.fb := by
  unfold monitorForeign; split <;> [(split <;> simp); rfl; rfl]

theorem dataStep_fb {c : Config} {s t : State} (h : dataStep c s = .next t) : t.fb = s.fb := by
  cases hr : s.fb.read (cellAddr c s.idx s.half s.col).toNat with
  | none => rw [dataStep_unwritten c s hr] at h; cases h
  | some p => rw [dataStep_written c s hr] at h; cases h; exact emit_fb ..

theorem startRefresh_fb {c : Config} {s t : State} (h : startRefresh c s = .next t) : t.fb = s.fb := by
  unfold startRefresh at h
  split at h <;> cases h
  rfl

theorem execShiftRowPairBits_fb {s t : State} (h : execShiftRowPairBits s = .next t) : t.fb = s.fb := by
  unfold execShiftRowPairBits at h
  split at h
  · exact dataStep_fb h
  · cases h; exact clockLowStep_fb ..
  · cases h; exact clockHighStep_fb ..

/-- No instruction writes the frame buffer (R63). -/
theorem exec_fb {i : Instr} {s t : State} (h : exec i s = .next t) : t.fb = s.fb := by
  cases i
  case idle => cases h; rfl
  case disableLatch => cases h; exact disableStep_fb ..
  case shiftRowPairBits => exact execShiftRowPairBits_fb h
  case setRowAddress => cases h; exact addressStep_fb ..
  case enableLatch => cases h; exact enableStep_fb ..
  case start => exact startRefresh_fb h
  all_goals cases h; exact emit_fb ..

/-! ## What a step does to the frame buffer, by what it fetched -/

/-- A step that performs a code word leaves the frame buffer as the fetch left it. -/
theorem step_fb_of_fetch_word {s u t : State} {w : CodeWord} (hf : fetch s = (.word w, u)) (h : step s = .next t) :
    t.fb = u.fb := by
  simp only [step, hf] at h
  split at h
  · exact (exec_fb h).trans (monitorForeign_fb ..)
  · cases h

/-- A request of the host makes the step perform a code word: its own, or that of the sequencer (R109). -/
theorem moveAction_cmd (s : State) (req : BitVec 1) : ∃ w, moveAction s (.cmd req) = .word w := by
  by_cases hr : req = 1#1
  · exact ⟨.cmd req, by simp [moveAction, hr]⟩
  · exact ⟨.state s.st.code, by simp [moveAction, seqAction, hr]⟩

/-- Under the default `FB_WRITE_WHILE_BUSY = refused`, a write that answers a next state met `BUSY = 0` (R71, D21). -/
theorem hostWrite_next {a : CellAddr} {v : Pixel} {s t : State} (h : hostWrite Params.chip a v s = .next t) :
    s.busy = false ∧ t = { s with fb := s.fb.write a.toNat v } := by
  cases hb : s.busy with
  | true => simp [hostWrite, hb, Params.chip] at h
  | false =>
    simp only [hostWrite, hb] at h
    cases h
    exact ⟨rfl, rfl⟩

/-- A step that performs a write writes that one cell, and `BUSY` is 0. -/
theorem step_fb_of_fetch_write {s t : State} {a : CellAddr} {v : Pixel} {rest : List Input}
    (hf : fetch s = (.write a v, { s with inputs := rest })) (h : step s = .next t) :
    s.busy = false ∧ t.fb = s.fb.write a.toNat v := by
  simp only [step, hf] at h
  obtain ⟨hb, rfl⟩ := hostWrite_next h
  exact ⟨hb, rfl⟩

/-- Only a write from outside changes the frame buffer, and only while `BUSY = 0` (R63, R71, R240). -/
theorem step_fb {s t : State} (h : step s = .next t) :
    t.fb = s.fb ∨ ∃ a v rest, t.fb = s.fb.write a.toNat v ∧
      (s.inputs = .host (.write a v) :: rest ∧ s.busy = false ∨
        s.inputs = .forced (.write a v) :: rest ∧ s.busy = false) := by
  rcases fetch_cases s with hf | ⟨m, rest, hf, hin⟩ | ⟨w, rest, hf, -⟩
  · exact .inl (step_fb_of_fetch_word hf h :)
  · cases m with
    | cmd req =>
      obtain ⟨w, hw⟩ := moveAction_cmd s req
      rw [hw] at hf
      exact .inl (step_fb_of_fetch_word hf h :)
    | write a v =>
      obtain ⟨hb, ht⟩ := step_fb_of_fetch_write hf h
      exact .inr ⟨a, v, rest, ht, hin.imp_right fun hi => ⟨hi, hb⟩⟩
  · exact .inl (step_fb_of_fetch_word hf h :)

/-- Settles O9: every instruction keeps the whole memory, and a step's fetch tells whether it performs a write. -/
theorem blockNeverWritesFrameBuffer : Obligations.BlockNeverWritesFrameBuffer :=
  ⟨fun _ _ _ h a => congrArg (·.read a) (exec_fb h), fun _ _ h => step_fb h⟩

end Sys2Proof.Machine
end

section
/-! SUPPORT. The words that name nothing (R104, R109), and the words of the opcode table (R102, R103). -/

namespace Sys2Proof.Machine

/-- Pin number 7 does not exist, whatever the level in bit 3 (R104, U7). -/
theorem decode_event_reservedPin {w : BitVec 4} (h : w.extractLsb' 0 3 = 7#3) :
    decode (.event w) = .error (.reservedPin (w.getLsbD 3)) := by
  simp [decode, decodeEvent, h, pinOfNum]

/-- The table of states ends with code 4 (R103). -/
theorem stateOfCode_eq_none {w : BitVec 3} (h : 4 < w.toNat) : stateOfCode w = none := by
  unfold stateOfCode
  split
  case h_6 => rfl
  all_goals omega

/-- Codes above 4 name no state (R104, U6). -/
theorem decode_state_unused {w : BitVec 3} (h : 4 < w.toNat) : decode (.state w) = .error (.unusedStateCode w) := by
  simp [decode, decodeState, stateOfCode_eq_none h]

/-- Settles O3: the event words are those of `PinEvent.word` and the state codes those of `SeqState.code`, which decode to
their operations; a pin number 7 and a state code above 4 name nothing. -/
theorem tableWordsDecode : Obligations.TableWordsDecode :=
  ⟨decode_eventWord ⟨false, .data⟩, decode_eventWord ⟨true, .data⟩,
    decode_eventWord ⟨false, .clk⟩, decode_eventWord ⟨true, .clk⟩,
    decode_eventWord ⟨false, .lat⟩, decode_eventWord ⟨true, .lat⟩,
    decode_eventWord ⟨false, .a8⟩, decode_eventWord ⟨true, .a8⟩,
    decode_eventWord ⟨false, .a4⟩, decode_eventWord ⟨true, .a4⟩,
    decode_eventWord ⟨false, .a2⟩, decode_eventWord ⟨true, .a2⟩,
    decode_eventWord ⟨false, .a1⟩, decode_eventWord ⟨true, .a1⟩,
    decode_stateCode .idle, decode_stateCode .disableLatch, decode_stateCode .shiftRowPairBits,
    decode_stateCode .setRowAddress, decode_stateCode .enableLatch, rfl,
    decode_event_reservedPin rfl, decode_event_reservedPin rfl, fun _ => decode_state_unused, rfl⟩

end Sys2Proof.Machine
end

section
/-! SUPPORT. What the fourteen pin operations share (R130): the frame of `emit`, and the event that finds its pin at the
level it writes. -/

namespace Sys2Proof.Machine

/-- Writing the level a pin has changes no pin. -/
theorem setLevel_level_self (r : PinReg) (p : Pin) : setLevel r p (level r p) = r := by
  refine pinReg_ext fun q => ?_
  rw [level_setLevel]
  split
  next hq => rw [hq]
  next => rfl

/-- A pin event leaves the sequencer's registers alone (R130). -/
theorem emit_sameControl (c : Config) (p : Pin) (v : Bool) (s : State) : s.SameControl (emit c p v s) :=
  ⟨(emit_st ..).symm, (emit_idx ..).symm, (emit_half ..).symm, (emit_ch ..).symm, (emit_col ..).symm,
    (emit_ph ..).symm, (emit_ab ..).symm⟩

/-- An event whose pin has the level already makes no edge and leaves `PIN` as it is; the trace still gets it (R130). -/
theorem emit_of_level_eq {p : Pin} {v : Bool} {s : State} (h : level s.pin p = v) :
    emit Params.chip p v s = s.afterEvent ⟨v, p⟩ s.pin s.out := by
  have hpin : setLevel s.pin p v = s.pin := by rw [← h, setLevel_level_self]
  rw [emit_quiet p v s (fun hp hv => by rw [← hp, h, hv]) (fun hp hv => by rw [← hp, h, hv]), hpin]

/-- While `FAULT` is 0, an event gives `OUT` the value that its caller names. -/
theorem afterEvent_out {s : State} (h : s.fault = none) (e : PinEvent) (r : PinReg) (o : Chain) :
    (s.afterEvent e r o).out = o :=
  if_pos h

/-- Settles O12: every operation is `emit` on its pin, whose frame is in the laws; at the level the pin has, the event makes
no edge. -/
theorem pinOperationsShare : Obligations.PinOperationsShare := by
  intro e s
  refine ⟨_, exec_event e s, ?level, ?otherPins, emit_trace .., emit_sameControl .., emit_busy .., emit_fb ..,
    emit_inputs .., ?noEdge⟩
  case level => rw [emit_pin, level_setLevel_same]
  case otherPins => intro q hq; rw [emit_pin, level_setLevel_ne _ _ hq]
  case noEdge =>
    intro hl
    rw [emit_of_level_eq hl]
    exact ⟨rfl, rfl, rfl, fun hf => afterEvent_out hf ..⟩

end Sys2Proof.Machine
end

section
/-! SUPPORT. The three steps of ShiftRowPairBits (R155, R156, R157), one by one. -/

namespace Sys2Proof.Machine

/-! ## The step that `PH` names -/

/-- The data step on a written cell sends the cell's bit `CH` (R155). -/
theorem exec_shift_data {s : State} {p : Pixel} (hph : s.ph = .data)
    (hread : s.fb.read (32 * (16 * s.half.toNat + s.idx.toNat) + s.col.toNat) = some p) :
    exec .shiftRowPairBits s =
      .next { emit Params.chip .data (p.getLsbD (channelNum s.ch)) s with ph := .clkLow } := by
  have hexec : exec .shiftRowPairBits s = dataStep Params.chip s := by simp only [exec, execShiftRowPairBits, hph]
  rw [← cellAddr_toNat] at hread
  rw [hexec, dataStep_written _ s hread]

theorem exec_shift_clkLow {s : State} (hph : s.ph = .clkLow) :
    exec .shiftRowPairBits s = .next (clockLowStep Params.chip s) := by
  simp only [exec, execShiftRowPairBits, hph]

theorem exec_shift_clkHigh {s : State} (hph : s.ph = .clkHigh) :
    exec .shiftRowPairBits s = .next (clockHighStep Params.chip s) := by
  simp only [exec, execShiftRowPairBits, hph]

/-- Settles O22: the cell's bit decides which of the two data writes the step performs; neither touches the chain. -/
theorem dataStepSendsCellBit : Obligations.DataStepSendsCellBit := by
  intro s p hph hread
  rw [exec_shift_data hph hread, emit_data]
  cases p.getLsbD (channelNum s.ch) <;> rfl

/-- Everything the clock-low step does (R156): `CLR CLK` makes no edge at the sink. -/
theorem clockLowStep_eq (s : State) :
    clockLowStep Params.chip s =
      { s.afterEvent ⟨false, .clk⟩ (s.pin &&& 0b1111101#7) s.out with ph := .clkHigh } := by
  rw [clockLowStep, emit_clk_low]
  rfl

/-- Settles O24: the step that `PH = 1` names is the clock-low step. -/
theorem Shift.clockLowStep : Obligations.ClockLowStep := by
  intro s hph
  rw [exec_shift_clkLow hph, clockLowStep_eq]

/-- Settles O25: `SET CLK` leaves the counters alone, so they advance from the state before it; the cases are the nested
conditions of R157. -/
theorem Shift.clockHighStep : Obligations.ClockHighStep := by
  intro s hph
  refine ⟨_, _, exec_event ⟨true, .clk⟩ s, exec_shift_clkHigh hph, ?_⟩
  rw [Machine.clockHighStep, advance_chip]
  by_cases hcol : s.col.toNat < 31
  · simp [hcol]
  · cases hch : s.ch with
    | blue => simp [hcol, hch]
    | green => simp [hcol, hch]
    | red => by_cases hhalf : s.half = 0#1 <;> simp [hcol, hch, hhalf]

end Sys2Proof.Machine
end

section
/-! SUPPORT. `SHIFTBIT` (R150) as three steps of the machine. -/

namespace Sys2Proof.Machine

/-- What one bit leaves of `s` before the counters advance (R150): the bit is on `DATA`, `CLK` has risen, and the chain has
taken the bit in. -/
def State.afterBit (s : State) (v : Bool) : State :=
  { s with
    pin := setLevel (setLevel (setLevel s.pin .data v) .clk false) .clk true
    trace := s.trace ++ shiftBit v
    sr := shiftIn s.sr v }

/-- The pins after one bit: `DATA` holds it, `CLK` is 1, the other five are as before. -/
theorem level_afterBit (s : State) (v : Bool) (p : Pin) :
    level (s.afterBit v).pin p = if p = .clk then true else if p = .data then v else level s.pin p := by
  cases p <;> simp [State.afterBit, level_setLevel]

/-- While `FAULT` is 0, an event changes only the pins, the trace, and `OUT` as its caller names. -/
theorem afterEvent_eq {s : State} (h : s.fault = none) (e : PinEvent) (r : PinReg) (o : Chain) :
    s.afterEvent e r o = { s with pin := r, trace := s.trace ++ [e], out := o } := by
  simp [State.afterEvent, h]

section OneBit

variable {s : State} (hst : s.st = .shiftRowPairBits) (hin : s.inputs = []) (hf : s.fault = none)
include hst hin

/-- With nothing to come, the state ShiftRowPairBits has the step. -/
theorem step_shift : step s = exec .shiftRowPairBits s := by
  rw [step_no_inputs hin, hst]
  rfl

include hf

theorem step_shift_data {p : Pixel} (hph : s.ph = .data)
    (hread : s.fb.read (32 * (16 * s.half.toNat + s.idx.toNat) + s.col.toNat) = some p) :
    step s = .next { s with
      pin := setLevel s.pin .data (p.getLsbD (channelNum s.ch))
      trace := s.trace ++ [⟨p.getLsbD (channelNum s.ch), .data⟩]
      ph := .clkLow } := by
  rw [step_shift hst hin, exec_shift_data hph hread, emit_data, afterEvent_eq hf]

theorem step_shift_clkLow (hph : s.ph = .clkLow) :
    step s = .next { s with
      pin := setLevel s.pin .clk false
      trace := s.trace ++ [⟨false, .clk⟩]
      ph := .clkHigh } := by
  rw [step_shift hst hin, exec_shift_clkLow hph, clockLowStep, emit_clk_low, afterEvent_eq hf]

theorem step_shift_clkHigh (hph : s.ph = .clkHigh) (hclk : level s.pin .clk = false)
    (hlat : level s.pin .lat = false) :
    step s = .next (advance Params.chip { s with
      pin := setLevel s.pin .clk true
      trace := s.trace ++ [⟨true, .clk⟩]
      sr := shiftIn s.sr (level s.pin .data)
      ph := .data }) := by
  rw [step_shift hst hin, exec_shift_clkHigh hph, clockHighStep, emit_clk_rise s hclk hlat, afterEvent_eq hf]

/-- `SHIFTBIT` (R150): three steps from a data step shift the cell's bit in and advance the counters. -/
theorem run_shiftBit {p : Pixel} (hph : s.ph = .data) (hlat : level s.pin .lat = false)
    (hread : s.fb.read (32 * (16 * s.half.toNat + s.idx.toNat) + s.col.toNat) = some p) :
    core.run 3 s = .next (advance Params.chip (s.afterBit (p.getLsbD (channelNum s.ch)))) := by
  refine Eq.trans (run_succ_of_next 2 (step_shift_data hst hin hf hph hread)) ?_
  refine Eq.trans (run_succ_of_next 1 (step_shift_clkLow hst hin hf rfl)) ?_
  refine Eq.trans (run_succ_of_next 0 (step_shift_clkHigh hst hin hf rfl (level_setLevel_same ..) ?lat)) ?_
  case lat => simpa [level_setLevel] using hlat
  refine congrArg (Host.Outcome.next <| advance Params.chip ·) ?_
  simp [State.afterBit, shiftBit, wr, pulse, level_setLevel, hph]

end OneBit

/-- Settles O43: the three steps are `SHIFTBIT`, and the counters' advance touches neither the pins nor the sink. -/
theorem shiftBitInThreeSteps : Obligations.ShiftBitInThreeSteps := by
  intro s p hst hph hin hf hlat hread
  refine ⟨_, run_shiftBit hst hin hf hph hlat hread, advance_trace .., advance_sr .., ?data, ?clk, advance_out ..,
    (advance_fault ..).trans hf, (advance_ph ..).trans hph⟩
  case data => simp [level_afterBit]
  case clk => simp [level_afterBit]

end Sys2Proof.Machine
end

section
/-! SUPPORT. The serial frame of a row pair (R94): the number of a bit, and `SHIFTPAIR` (R154) as the frame's 192 bits in
order. -/

namespace Sys2Proof.Machine

/-! ## Bit numbers -/

theorem channelNum_lt (ch : Channel) : channelNum ch < 3 := by
  cases ch <;> decide

/-- The number in the serial frame of the bit that the counters name: `96*HALF + 32*CH + COL` (R94). -/
def State.bitNum (s : State) : Nat := 96 * s.half.toNat + 32 * channelNum s.ch + s.col.toNat

/-- Bit `96*half + 32*ch + col` of the serial frame is that cell's channel bit (R94). -/
theorem serialBit_chip (f : Frame) (i half : Nat) (ch : Channel) {col : Nat} (hcol : col < 32) :
    serialBit Params.chip f i (96 * half + 32 * channelNum ch + col) = f (i + 16 * half) col ch := by
  have hchannel := channelNum_lt ch
  have hdiv : (96 * half + 32 * channelNum ch + col) / 96 = half := by omega
  have hmid : (96 * half + 32 * channelNum ch + col) % 96 / 32 = channelNum ch := by omega
  have hmod : (96 * half + 32 * channelNum ch + col) % 32 = col := by omega
  simp only [serialBit, Params.chip, rowOf, colOf, hdiv, hmid, hmod]
  cases ch <;> rfl

/-- A cell that reads as `p` gives the frame its bits. -/
theorem frame_of_read {m : Memory} {row col : Nat} {p : Pixel} (h : m.read (32 * row + col) = some p) (ch : Channel) :
    m.frame row col ch = p.getLsbD (channelNum ch) := by
  simp [Memory.frame, Memory.bit, h]

/-- In a complete frame buffer the cell the counters name holds a value, and its bit `CH` is the one of number `bitNum`. -/
theorem read_of_complete {s : State} (hfb : s.fb.complete) :
    ∃ p, s.fb.read (32 * (16 * s.half.toNat + s.idx.toNat) + s.col.toNat) = some p ∧
      p.getLsbD (channelNum s.ch) = serialBit Params.chip s.fb.frame s.idx.toNat s.bitNum := by
  have haddr : 32 * (16 * s.half.toNat + s.idx.toNat) + s.col.toNat < 1024 := by
    rw [← cellAddr_toNat]
    exact (cellAddr ..).isLt
  obtain ⟨p, hp⟩ := Option.ne_none_iff_exists'.mp (hfb _ haddr)
  refine ⟨p, hp, ?_⟩
  rw [State.bitNum, serialBit_chip _ _ _ _ s.col.isLt, Nat.add_comm s.idx.toNat]
  exact (frame_of_read hp _).symm

/-! ## `SHIFTPAIR` as the bits in order -/

/-- The events of the first `n` bits of the serial frame of index `i`. -/
def shiftBits (f : Frame) (i n : Nat) : List PinEvent :=
  (List.range n).flatMap fun b => shiftBit (serialBit Params.chip f i b)

theorem shiftBits_succ (f : Frame) (i n : Nat) :
    shiftBits f i (n + 1) = shiftBits f i n ++ shiftBit (serialBit Params.chip f i n) := by
  simp [shiftBits, List.range_succ]

/-- One channel of one row follows the bits before it (R152). -/
theorem shiftBits_add_channel (f : Frame) (i half : Nat) (ch : Channel) :
    shiftBits f i (96 * half + 32 * channelNum ch + 32) =
      shiftBits f i (96 * half + 32 * channelNum ch) ++ shiftCh Params.chip f (i + 16 * half) ch := by
  rw [shiftBits, List.range_add, List.flatMap_append, List.flatMap_map, shiftBits, shiftCh]
  congr 1
  refine List.flatMap_congr fun n hn => ?_
  rw [serialBit_chip f i half ch (List.mem_range.mp hn)]
  rfl

/-- One row follows the bits before it (R153). -/
theorem shiftBits_add_row (f : Frame) (i half : Nat) :
    shiftBits f i (96 * half + 96) = shiftBits f i (96 * half) ++ shiftRow Params.chip f (i + 16 * half) := by
  have hblue := shiftBits_add_channel f i half .blue
  have hgreen := shiftBits_add_channel f i half .green
  have hred := shiftBits_add_channel f i half .red
  simp only [channelNum] at hblue hgreen hred
  rw [hred, hgreen, hblue, Nat.mul_zero, Nat.add_zero, shiftRow]
  simp only [List.append_assoc]

/-- `SHIFTPAIR i` sends the 192 bits of the serial frame in order (R154). -/
theorem shiftPair_eq_shiftBits (f : Frame) (i : Nat) : shiftPair Params.chip f i = shiftBits f i 192 := by
  rw [shiftBits_add_row f i 1, shiftBits_add_row f i 0]
  rfl

end Sys2Proof.Machine
end

section
/-! SUPPORT. The 192 commits of a row pair (R160, R206), one bit at a time. -/

namespace Sys2Proof.Machine

/-! ## The chain -/

/-- The new bit enters at `SR[0]` (R201). -/
theorem shiftIn_zero (sr : Chain) (d : Bool) : (shiftIn sr d).getLsbD 0 = d := by
  simp [shiftIn]

/-- Every older bit moves up by one; the one in `SR[191]` is lost (R201). -/
theorem shiftIn_succ (sr : Chain) (d : Bool) {k : Nat} (hk : k < 191) :
    (shiftIn sr d).getLsbD (k + 1) = sr.getLsbD k := by
  simp [shiftIn, hk]

/-! ## The counters -/

/-- Where the counters stand after `n` bits of a row pair: at bit `n`, or, after the last, at the entry of SetRowAddress
(R157). -/
def State.CountersAfter (t : State) (n : Nat) : Prop :=
  if n < 192 then t.st = .shiftRowPairBits ∧ t.bitNum = n
  else t.st = .setRowAddress ∧ t.half = 0#1 ∧ t.ch = .blue ∧ t.col = 0#5 ∧ t.ab = 0#2

theorem countersAfter_of_lt {t : State} {n : Nat} (h : n < 192) :
    t.CountersAfter n ↔ t.st = .shiftRowPairBits ∧ t.bitNum = n :=
  iff_of_eq (if_pos h)

/-- The counters count the bits of the serial frame (R157): a carry out of `COL` and out of `CH` is worth 32 and 96 bits,
and the carry out of `HALF` ends the row pair. -/
theorem advance_countersAfter {t : State} (hst : t.st = .shiftRowPairBits) :
    (advance Params.chip t).CountersAfter (t.bitNum + 1) := by
  have hcolLt := t.col.isLt
  have hhalfLt := t.half.isLt
  rw [advance_chip]
  by_cases hcol : t.col.toNat < 31
  · have hnum : t.bitNum + 1 < 192 := by
      have hchannel := channelNum_lt t.ch
      unfold State.bitNum
      omega
    rw [if_pos hcol, countersAfter_of_lt hnum]
    refine ⟨hst, ?_⟩
    have hadd : (t.col + 1#5).toNat = t.col.toNat + 1 := by bv_omega
    simp only [State.bitNum, hadd, Nat.add_assoc]
  · have hcol31 : t.col.toNat = 31 := by omega
    rw [if_neg hcol]
    cases hch : t.ch with
    | blue =>
      rw [if_pos rfl, countersAfter_of_lt (by simp only [State.bitNum, hch, channelNum]; omega)]
      exact ⟨hst, by simp [State.bitNum, hch, hcol31, channelNum]⟩
    | green =>
      rw [if_neg nofun, if_pos rfl, countersAfter_of_lt (by simp only [State.bitNum, hch, channelNum]; omega)]
      exact ⟨hst, by simp [State.bitNum, hch, hcol31, channelNum]⟩
    | red =>
      rw [if_neg nofun, if_neg nofun]
      by_cases hhalf : t.half = 0#1
      · have hnum : t.bitNum = 95 := by simp [State.bitNum, hhalf, hch, hcol31, channelNum]
        rw [if_pos hhalf, hnum]
        exact ⟨hst, rfl⟩
      · have hhalf1 : t.half = 1#1 := (BitVec.eq_zero_or_eq_one t.half).resolve_left hhalf
        have hnum : t.bitNum = 191 := by simp [State.bitNum, hhalf1, hch, hcol31, channelNum]
        rw [if_neg hhalf, hnum]
        exact ⟨rfl, rfl, rfl, rfl, rfl⟩

/-! ## The pins, the trace and the sink -/

/-- What the first `n` bits of the row pair have made of `s`, counters aside (R160, R206). -/
structure BitsSent (s : State) (n : Nat) (t : State) : Prop where
  ph : t.ph = .data
  idx : t.idx = s.idx
  inputs : t.inputs = []
  fault : t.fault = none
  fb : t.fb = s.fb
  out : t.out = s.out
  trace : t.trace = s.trace ++ shiftBits s.fb.frame s.idx.toNat n
  chain : ∀ k, k < n → k < 192 → t.sr.getLsbD k = serialBit Params.chip s.fb.frame s.idx.toNat (n - 1 - k)
  otherPins : ∀ p, p ≠ .data → p ≠ .clk → level t.pin p = level s.pin p
  lastBit : 0 < n → level t.pin .clk = true ∧
    level t.pin .data = serialBit Params.chip s.fb.frame s.idx.toNat (n - 1)

/-- Before the first bit nothing is sent. -/
theorem BitsSent.zero {s : State} (hph : s.ph = .data) (hin : s.inputs = []) (hf : s.fault = none) : BitsSent s 0 s where
  ph := hph
  idx := rfl
  inputs := hin
  fault := hf
  fb := rfl
  out := rfl
  trace := (List.append_nil _).symm
  chain _ hk := absurd hk (Nat.not_lt_zero _)
  otherPins _ _ _ := rfl
  lastBit h := absurd h (Nat.lt_irrefl _)

/-- One more bit, with the next number, goes into the chain behind the others. -/
theorem BitsSent.succ {s t : State} {n : Nat} (h : BitsSent s n t) :
    BitsSent s (n + 1)
      (advance Params.chip (t.afterBit (serialBit Params.chip s.fb.frame s.idx.toNat n))) where
  ph := (advance_ph ..).trans h.ph
  idx := (advance_idx ..).trans h.idx
  inputs := (advance_inputs ..).trans h.inputs
  fault := (advance_fault ..).trans h.fault
  fb := (advance_fb ..).trans h.fb
  out := (advance_out ..).trans h.out
  trace := by rw [advance_trace, shiftBits_succ, ← List.append_assoc, ← h.trace]; rfl
  chain k hk hk192 := by
    rw [advance_sr]
    cases k with
    | zero => exact shiftIn_zero ..
    | succ k =>
      refine (shiftIn_succ _ _ (by omega)).trans ?_
      rw [h.chain k (by omega) (by omega)]
      congr 1
      omega
  otherPins p hdata hclk := by rw [advance_pin, level_afterBit, if_neg hclk, if_neg hdata, h.otherPins p hdata hclk]
  lastBit _ := by rw [advance_pin, level_afterBit, level_afterBit]; exact ⟨rfl, rfl⟩

/-- From the entry of ShiftRowPairBits, three steps per bit send the serial frame in order (R154). -/
theorem run_bitsSent {s : State} (hs : BitsSent s 0 s) (hc : s.CountersAfter 0) (hlat : level s.pin .lat = false)
    (hfb : s.fb.complete) {n : Nat} (hn : n ≤ 192) :
    ∃ t : State, core.run (3 * n) s = .next t ∧ BitsSent s n t ∧ t.CountersAfter n := by
  induction n with
  | zero => exact ⟨s, run_zero s, hs, hc⟩
  | succ n ih =>
    obtain ⟨t, hrun, ht, hct⟩ := ih (by omega)
    obtain ⟨hst, hnum⟩ := (countersAfter_of_lt (by omega)).mp hct
    obtain ⟨p, hread, hbit⟩ := read_of_complete (s := t) (ht.fb ▸ hfb)
    have htlat : level t.pin .lat = false := (ht.otherPins .lat nofun nofun).trans hlat
    have hstep := run_shiftBit hst ht.inputs ht.fault ht.ph htlat hread
    rw [hbit, hnum, ht.fb, ht.idx] at hstep
    exact ⟨_, (run_add (3 * n) 3 hrun).trans hstep, ht.succ, hnum ▸ advance_countersAfter hst⟩

/-- Settles O55: the counters run through the serial frame in order, so bit `b` is pushed up by the `191 - b` bits after
it. -/
theorem shiftPairFillsChain : Obligations.ShiftPairFillsChain := by
  intro s hst hhalf hch hcol hph hin hf hlat hfb
  have hentry : s.CountersAfter 0 := ⟨hst, by simp [State.bitNum, hhalf, hch, hcol, channelNum]⟩
  obtain ⟨t, hrun, ht, hct⟩ := run_bitsSent (.zero hph hin hf) hentry hlat hfb (Nat.le_refl 192)
  obtain ⟨htst, hthalf, htch, htcol, htab⟩ := hct
  obtain ⟨hclk, hdata⟩ := ht.lastBit (by decide)
  refine ⟨t, hrun, htst, hthalf, htch, htcol, ht.ph, htab, ht.idx, ht.fault, ?trace, ?chain, ht.out, ?addr, hclk,
    (ht.otherPins .lat nofun nofun).trans hlat, ?data⟩
  case trace => rw [shiftPair_eq_shiftBits, ht.trace]
  case chain =>
    intro half ch col hhalf hcol
    have hchannel := channelNum_lt ch
    rw [ht.chain _ (by omega) (by omega), ← serialBit_chip s.fb.frame s.idx.toNat half ch hcol]
    congr 1
    omega
  case addr => simp [addr, ht.otherPins]
  case data => exact hdata.trans (serialBit_chip _ _ 1 .red (show 31 < 32 by decide))

end Sys2Proof.Machine
end

section
/-! SUPPORT. Idle and `START` (R170, R171, R183). -/

namespace Sys2Proof.Machine

/-! ## Idle -/

/-- Idle with nothing to come is a fixed point of the step (R171). -/
theorem step_idle {s : State} (hst : s.st = .idle) (hin : s.inputs = []) : step s = .next s := by
  rw [step_no_inputs hin, hst]
  rfl

theorem run_idle {s : State} (hst : s.st = .idle) (hin : s.inputs = []) (n : Nat) : core.run n s = .next s := by
  induction n with
  | zero => rfl
  | succ n ih => rw [run_succ_of_next n (step_idle hst hin), ih]

@[simp] theorem monitorForeign_st (w : CodeWord) (s : State) : (monitorForeign w s).st = s.st := by
  unfold monitorForeign; split <;> [(split <;> rfl); rfl; rfl]

/-- An event word leaves the sequencer in its state, whoever gives it (R130). -/
theorem step_st_of_fetch_event {s t u : State} {w : BitVec 4} (hf : fetch s = (.word (.event w), u))
    (h : step s = .next t) : t.st = u.st := by
  simp only [step, hf, decode] at h
  cases hd : decodeEvent w with
  | error r => simp [hd] at h
  | ok e =>
    simp only [hd, exec_event] at h
    cases h
    simp

/-- In Idle the sequencer's own step stays in Idle, on whatever inputs are left (R171). -/
theorem step_st_of_fetch_idle {s t u : State} (hst : u.st = .idle)
    (hf : fetch s = (.word (.state SeqState.idle.code), u)) (h : step s = .next t) : t.st = .idle := by
  simp only [step, hf, decode_stateCode] at h
  cases h
  exact hst

/-- Only a request of 1 leads out of Idle (R171, R240). -/
theorem step_leaves_idle {s t : State} (hst : s.st = .idle) (h : step s = .next t) (ht : t.st ≠ .idle) :
    ∃ rest, s.inputs = .host (.cmd 1#1) :: rest ∨ s.inputs = .forced (.cmd 1#1) :: rest := by
  rcases fetch_cases s with hf | ⟨m, rest, hf, hin⟩ | ⟨w, rest, hf, -⟩
  · rw [hst] at hf
    exact absurd (step_st_of_fetch_idle hst hf h) ht
  · cases m with
    | cmd req =>
      by_cases hr : req = 1#1
      · subst hr
        exact ⟨rest, hin.imp_left And.left⟩
      · have hact : moveAction s (.cmd req) = .word (.state SeqState.idle.code) := by
          simp [moveAction, hr, seqAction, hst]
        rw [hact] at hf
        exact absurd (step_st_of_fetch_idle (u := { s with inputs := rest }) hst hf h) ht
    | write a v =>
      simp only [step, hf, moveAction] at h
      obtain ⟨-, rfl⟩ := hostWrite_next h
      exact absurd hst ht
  · exact absurd ((step_st_of_fetch_event hf h).trans hst) ht

/-- Settles O18: the hold is a fixed point of the step, and of all that a fetch can answer only the request of 1 runs an
operation that writes `ST`. -/
theorem idleHolds : Obligations.IdleHolds := by
  refine ⟨fun _ => rfl, fun n _ hst hin => run_idle hst hin n, fun _ _ => step_leaves_idle, ?busy⟩
  case busy =>
    rintro s ⟨-, hbusy, -⟩ hst
    exact Bool.eq_false_iff.mpr fun h => hbusy.mp h hst

/-! ## `START` -/

/-- Everything `START` does in Idle (R170). -/
theorem exec_start_idle {s : State} (hst : s.st = .idle) :
    exec .start s = .next { s with idx := 0#4, busy := true, st := .disableLatch } :=
  if_pos hst

/-- Outside Idle `START` is refused (R183). -/
theorem exec_start_refused {s : State} (hst : s.st ≠ .idle) : exec .start s = .refused .startWhileBusy :=
  if_neg hst

/-- A request of 1 that lands runs `START` (R109, R240). -/
theorem step_request {s : State} {rest : List Input}
    (h : s.inputs = .host (.cmd 1#1) :: rest ∧ s.busy = false ∨ s.inputs = .forced (.cmd 1#1) :: rest) :
    step s = exec .start { s with inputs := rest } := by
  rcases h with ⟨hin, hbusy⟩ | hin
  · simp [step, fetch, hin, hbusy, moveAction, decode, monitorForeign]
  · simp [step, fetch, hin, moveAction, decode, monitorForeign]

/-- With nothing to come, the state DisableLatch has the step. -/
theorem step_disableLatch {s : State} (hst : s.st = .disableLatch) (hin : s.inputs = []) :
    step s = .next (disableStep Params.chip s) := by
  rw [step_no_inputs hin, hst]
  rfl

theorem disableStep_trace (s : State) : (disableStep Params.chip s).trace = s.trace ++ [⟨false, .lat⟩] :=
  emit_trace ..

/-- Settles O19: `START` enters DisableLatch, whose step opens the refresh with `CLR LAT`. -/
theorem startBeginsRefresh : Obligations.StartBeginsRefresh := by
  intro s hst
  exact ⟨_, exec_start_idle hst, rfl, fun hin => ⟨_, step_disableLatch rfl hin, disableStep_trace _⟩⟩

/-- Settles O20: a forced request lands whatever `BUSY` is, and meets the refusal. -/
theorem startWhileBusyRefused : Obligations.StartWhileBusyRefused :=
  ⟨fun _ => exec_start_refused, fun _ _ hst hin => (step_request (.inr hin)).trans (exec_start_refused hst)⟩

end Sys2Proof.Machine
end

section
/-! SUPPORT. The steps of DisableLatch, SetRowAddress and EnableLatch (R172 to R175), each as a whole next state. -/

namespace Sys2Proof.Machine

/-! ## DisableLatch -/

/-- Under the default latch level the latch is disabled with `CLR LAT` (R172, D5). -/
theorem disableStep_chip (s : State) :
    disableStep Params.chip s =
      { emit Params.chip .lat false s with
        half := 0#1, ch := .blue, col := 0#5, ph := .data, st := .shiftRowPairBits } := rfl

@[simp] theorem disableStep_idx (c : Config) (s : State) : (disableStep c s).idx = s.idx := emit_idx ..

/-- Settles O21: `CLR LAT` makes no edge at the sink, so the pin, the trace and the counters are all that changes. -/
theorem disableLatchStep : Obligations.DisableLatchStep := by
  intro s
  change Host.Outcome.next (disableStep Params.chip s) = _
  rw [disableStep_chip, emit_lat_low]
  rfl

/-! ## SetRowAddress -/

/-- The line that `AB` selects has pin number `3 + AB` (R26, R173). -/
theorem addrPin_num (ab : BitVec 2) : (addrPin ab).num = 3 + ab.toNat := by
  revert ab; decide

theorem addrPin_eq (ab : BitVec 2) :
    addrPin ab = if ab = 0#2 then .a8 else if ab = 1#2 then .a4 else if ab = 2#2 then .a2 else .a1 := by
  revert ab; decide

/-- `IDX[3 - AB]` is `(IDX div (8 >> AB)) mod 2` (R173, R174). -/
theorem addrBit_eq (idx : BitVec 4) (ab : BitVec 2) :
    addrBit idx ab = decide (idx.toNat / (8 >>> ab.toNat) % 2 = 1) := by
  have hab := ab.isLt
  have hweight : 8 >>> ab.toNat = 2 ^ (3 - ab.toNat) := by
    rw [show 8 = 2 ^ 3 from rfl, Nat.shiftRight_eq_div_pow, Nat.pow_div (by omega) (by decide)]
  rw [addrBit, hweight, ← BitVec.testBit_toNat, Nat.testBit_eq_decide_div_mod_eq]

/-- The mask of pin `3 + AB` is `8 << AB`. -/
theorem setLevel_addrPin (r : PinReg) (ab : BitVec 2) (v : Bool) :
    setLevel r (addrPin ab) v = if v then r ||| (8#7 <<< ab.toNat) else r &&& ~~~(8#7 <<< ab.toNat) := by
  have hmask : BitVec.twoPow 7 (3 + ab.toNat) = 8#7 <<< ab.toNat := by
    rw [BitVec.twoPow, BitVec.shiftLeft_add]
    rfl
  rw [setLevel, addrPin_num, hmask]

/-- Everything the step of SetRowAddress does (R173): the address pin makes no edge at the sink. -/
theorem addressStep_eq (s : State) :
    addressStep Params.chip s =
      { s.afterEvent ⟨addrBit s.idx s.ab, addrPin s.ab⟩ (setLevel s.pin (addrPin s.ab) (addrBit s.idx s.ab)) s.out with
        ab := if s.ab.toNat < 3 then s.ab + 1#2 else 0#2
        st := if s.ab.toNat < 3 then s.st else .enableLatch } := by
  rw [addressStep, emit_addrPin]
  by_cases hab : s.ab.toNat < 3
  · simp only [if_pos hab]
    rfl
  · simp only [if_neg hab]

/-- Settles O26: what is left is the number of the pin and the bit of `IDX`. -/
theorem setRowAddressStep : Obligations.SetRowAddressStep := by
  intro s
  change Host.Outcome.next (addressStep Params.chip s) = _
  rw [addressStep_eq, addrBit_eq, setLevel_addrPin, addrPin_eq]
  simp only [decide_eq_true_eq]

/-! ## EnableLatch -/

/-- The last index is 15, and below it the index is counted up (R175). -/
theorem enableStep_chip (s : State) :
    enableStep Params.chip s =
      if s.idx = 15#4 then { emit Params.chip .lat true s with idx := 0#4, busy := false, st := .idle }
      else { emit Params.chip .lat true s with idx := s.idx + 1#4, st := .disableLatch } := rfl

theorem idx_eq_last_iff (idx : BitVec 4) : idx = 15#4 ↔ ¬ idx.toNat < 15 := by
  bv_omega

/-- Settles O27: EnableLatch is `SET LAT` and then the index. -/
theorem enableLatchStep : Obligations.EnableLatchStep := by
  intro s
  refine ⟨_, _, exec_event ⟨true, .lat⟩ s, rfl, ?_⟩
  simp only [enableStep_chip, idx_eq_last_iff, ite_not]

end Sys2Proof.Machine
end

section
/-! SUPPORT. The closed form of a refresh by the offset in the row cycle (R106, R178), and its order (R180). -/

namespace Sys2Proof.Machine

/-! ## The event at an offset -/

/-- Event `582*i + k` of a refresh is event `k` of row cycle `i` (R178). -/
theorem refreshEvent_cycle (f : Frame) (i : Nat) {k : Nat} (hk : k < 582) :
    refreshEvent Params.chip f (582 * i + k) = cycleEvent Params.chip f i k := by
  rw [refreshEvent, Nat.mul_add_div (by decide), Nat.div_eq_of_lt hk, Nat.mul_add_mod, Nat.mod_eq_of_lt hk]
  rfl

/-- A row cycle opens with `CLR LAT`, sends 192 bits of three events each, writes four address lines and closes with
`SET LAT` (R106). -/
theorem offset_cases {k : Nat} (hk : k < 582) :
    k = 0 ∨ (∃ b, b < 192 ∧ (k = 1 + 3 * b ∨ k = 2 + 3 * b ∨ k = 3 + 3 * b)) ∨ (∃ j, j < 4 ∧ k = 577 + j) ∨
      k = 581 := by
  rcases Nat.lt_or_ge 576 k with hlate | hearly
  · by_cases hlast : k = 581
    · exact .inr (.inr (.inr hlast))
    · exact .inr (.inr (.inl ⟨k - 577, by omega, by omega⟩))
  · by_cases hfirst : k = 0
    · exact .inl hfirst
    · exact .inr (.inl ⟨(k - 1) / 3, by omega, by omega⟩)

/-- The number `j` of the four address writes of index `i` (R173, R174). -/
def addressEvent (i j : Nat) : PinEvent := ⟨i.testBit (3 - j), addrPin (BitVec.ofNat 2 j)⟩

/-- `SETADDR` is the four of them in order (R173). -/
theorem map_addressEvent (i : Nat) : (List.range 4).map (addressEvent i) = setAddr i := rfl

section CycleEvents

variable (f : Frame) (i : Nat)

theorem cycleEvent_first : cycleEvent Params.chip f i 0 = ⟨false, .lat⟩ := rfl

theorem cycleEvent_last : cycleEvent Params.chip f i 581 = ⟨true, .lat⟩ := rfl

/-- The three events of bit `b` (R106): the data write and the pulse. -/
theorem cycleEvent_data {b : Nat} (hb : b < 192) :
    cycleEvent Params.chip f i (1 + 3 * b) = ⟨serialBit Params.chip f i b, .data⟩ := by
  rw [cycleEvent, if_neg (by omega), if_pos (by omega), Nat.add_sub_cancel_left, Nat.mul_mod_right,
    Nat.mul_div_cancel_left b (by decide)]
  rfl

theorem cycleEvent_clkLow {b : Nat} (hb : b < 192) : cycleEvent Params.chip f i (2 + 3 * b) = ⟨false, .clk⟩ := by
  have hmod : (2 + 3 * b - 1) % 3 = 1 := by omega
  rw [cycleEvent, if_neg (by omega), if_pos (by omega), hmod]
  rfl

theorem cycleEvent_clkHigh {b : Nat} (hb : b < 192) : cycleEvent Params.chip f i (3 + 3 * b) = ⟨true, .clk⟩ := by
  have hmod : (3 + 3 * b - 1) % 3 = 2 := by omega
  rw [cycleEvent, if_neg (by omega), if_pos (by omega), hmod]
  rfl

theorem cycleEvent_address {j : Nat} (hj : j < 4) :
    cycleEvent Params.chip f i (577 + j) = addressEvent i j := by
  rw [cycleEvent, if_neg (by omega), if_neg (by omega), if_pos (by omega), Nat.add_sub_cancel_left]
  rfl

/-- The shift part of a row cycle is the serial frame in order (R154). -/
theorem map_cycleEvent_shift {n : Nat} (hn : n ≤ 192) :
    ((List.range (3 * n)).map fun j => cycleEvent Params.chip f i (1 + j)) = shiftBits f i n := by
  induction n with
  | zero => rfl
  | succ n ih =>
    have hdata := cycleEvent_data f i (b := n) (by omega)
    have hlow := cycleEvent_clkLow f i (b := n) (by omega)
    have hhigh := cycleEvent_clkHigh f i (b := n) (by omega)
    rw [shiftBits_succ, ← ih (by omega), Nat.mul_succ, List.range_add, List.map_append, List.map_map]
    refine congrArg (_ ++ ·) ?_
    simp only [List.range, List.range.loop, List.map_cons, List.map_nil, Function.comp_apply, Nat.add_zero,
      show 1 + (3 * n + 1) = 2 + 3 * n by omega, show 1 + (3 * n + 2) = 3 + 3 * n by omega, hdata, hlow, hhigh]
    rfl

/-- Between the latch events stand `SHIFTPAIR` and `SETADDR` (R176). -/
theorem map_cycleEvent_inner :
    ((List.range 580).map fun j => cycleEvent Params.chip f i (1 + j)) = shiftBits f i 192 ++ setAddr i := by
  rw [show 580 = 3 * 192 + 4 from rfl, List.range_add, List.map_append, map_cycleEvent_shift f i (Nat.le_refl 192),
    List.map_map, ← map_addressEvent]
  rfl

theorem count_setClk_shiftBit (v : Bool) : (shiftBit v).count ⟨true, .clk⟩ = 1 := by
  cases v <;> rfl

/-- One `SET CLK` per bit (R106). -/
theorem count_setClk_shiftBits (n : Nat) : (shiftBits f i n).count ⟨true, .clk⟩ = n := by
  induction n with
  | zero => rfl
  | succ n ih => rw [shiftBits_succ, List.count_append, ih, count_setClk_shiftBit]

theorem count_setClk_setAddr : (setAddr i).count ⟨true, .clk⟩ = 0 := by
  simp [setAddr, wr]

end CycleEvents

/-! ## Which pin an event of a refresh writes -/

theorem addrPin_ne_data (ab : BitVec 2) : addrPin ab ≠ .data := by
  revert ab; decide

theorem addrPin_ne_lat (ab : BitVec 2) : addrPin ab ≠ .lat := by
  revert ab; decide

/-- The latch events of a row cycle are its first and its last (R180(a)). -/
theorem cycleEvent_pin_lat_iff (f : Frame) (i : Nat) {k : Nat} (hk : k < 582) :
    (cycleEvent Params.chip f i k).pin = .lat ↔ k = 0 ∨ k = 581 := by
  rcases offset_cases hk with rfl | ⟨b, hb, rfl | rfl | rfl⟩ | ⟨j, hj, rfl⟩ | rfl
  · exact iff_of_true rfl (.inl rfl)
  · rw [cycleEvent_data f i hb]; exact iff_of_false nofun (by omega)
  · rw [cycleEvent_clkLow f i hb]; exact iff_of_false nofun (by omega)
  · rw [cycleEvent_clkHigh f i hb]; exact iff_of_false nofun (by omega)
  · rw [cycleEvent_address f i hj]; exact iff_of_false (addrPin_ne_lat _) (by omega)
  · exact iff_of_true rfl (.inr rfl)

/-- A data write of a row cycle has the number of a bit (R180(b)). -/
theorem cycleEvent_pin_data (f : Frame) (i : Nat) {k : Nat} (hk : k < 582)
    (h : (cycleEvent Params.chip f i k).pin = .data) : ∃ b, b < 192 ∧ k = 1 + 3 * b := by
  rcases offset_cases hk with rfl | ⟨b, hb, rfl | rfl | rfl⟩ | ⟨j, hj, rfl⟩ | rfl
  · cases h
  · exact ⟨b, hb, rfl⟩
  · rw [cycleEvent_clkLow f i hb] at h; cases h
  · rw [cycleEvent_clkHigh f i hb] at h; cases h
  · rw [cycleEvent_address f i hj] at h; exact absurd h (addrPin_ne_data _)
  · cases h

/-! ## The pins along a refresh -/

/-- The pins before event `K` of a refresh that finds them at `r` (R28). -/
def refreshPins (r : PinReg) (f : Frame) (K : Nat) : PinReg :=
  replayPins r ((List.range K).map (refreshEvent Params.chip f))

theorem refreshPins_succ (r : PinReg) (f : Frame) (K : Nat) :
    refreshPins r f (K + 1) =
      setLevel (refreshPins r f K) (refreshEvent Params.chip f K).pin (refreshEvent Params.chip f K).level := by
  simp [refreshPins, replayPins, List.range_succ]

/-- From the first event of a row cycle to its last the latch is disabled (R101, R180(a)). -/
theorem refreshPins_lat (r : PinReg) (f : Frame) (i : Nat) {k : Nat} (hk : k < 581) :
    level (refreshPins r f (582 * i + (k + 1))) .lat = false := by
  induction k with
  | zero =>
    have hfirst : refreshEvent Params.chip f (582 * i) = ⟨false, .lat⟩ := refreshEvent_cycle f i (k := 0) (by decide)
    rw [← Nat.add_assoc, refreshPins_succ, hfirst, level_setLevel_same]
  | succ k ih =>
    have hpin : (cycleEvent Params.chip f i (k + 1)).pin ≠ .lat := by
      rw [Ne, cycleEvent_pin_lat_iff f i (by omega)]
      omega
    rw [← Nat.add_assoc, refreshPins_succ, refreshEvent_cycle f i (by omega), level_setLevel_ne _ _ hpin.symm,
      ih (by omega)]

/-- The four address writes of a row cycle (R173). -/
theorem refreshPins_setAddr (r : PinReg) (f : Frame) (i : Nat) :
    refreshPins r f (582 * i + 581) = replayPins (refreshPins r f (582 * i + 577)) (setAddr i) := by
  rw [show 582 * i + 581 = 582 * i + 577 + 4 from rfl, refreshPins, refreshPins, List.range_add, List.map_append,
    replayPins, List.foldl_append, ← map_addressEvent, List.map_map]
  refine congrArg (List.foldl _ _) (List.map_congr_left fun j hj => ?_)
  have hj4 := List.mem_range.mp hj
  rw [Function.comp_apply, Nat.add_assoc, refreshEvent_cycle f i (by omega), cycleEvent_address f i hj4]

/-- `SETADDR i` puts the index on the address lines (R173, R174). -/
theorem addr_replayPins_setAddr {s : State} {r : PinReg} {i : Nat} (hi : i < 16)
    (h : s.pin = replayPins r (setAddr i)) : (addr s).toNat = i := by
  have hbits : ∀ i < 16, 8 * (i.testBit 3).toNat + 4 * (i.testBit 2).toNat + 2 * (i.testBit 1).toNat
      + (i.testBit 0).toNat = i := by decide
  rw [addr_toNat, h]
  refine Eq.trans ?_ (hbits i hi)
  simp [replayPins, setAddr, wr, level_setLevel]

/-! ## The order -/

/-- A number of an event, by row cycle and offset. -/
theorem exists_cycle_offset (K : Nat) : ∃ i k, k < 582 ∧ K = 582 * i + k ∧ K % 582 = k :=
  ⟨K / 582, K % 582, Nat.mod_lt _ (by decide), (Nat.div_add_mod K 582).symm, rfl⟩

/-- No bit is committed with the latch enabled (R180(a), R209). -/
theorem refreshPins_lat_of_setClk (r : PinReg) (f : Frame) {K : Nat}
    (h : refreshEvent Params.chip f K = ⟨true, .clk⟩) : level (refreshPins r f K) .lat = false := by
  obtain ⟨i, k, hk, rfl, -⟩ := exists_cycle_offset K
  rw [refreshEvent_cycle f i hk] at h
  have hpin := cycleEvent_pin_lat_iff f i hk
  simp only [h, reduceCtorEq, false_iff, not_or] at hpin
  obtain ⟨k, rfl⟩ := Nat.exists_eq_succ_of_ne_zero hpin.1
  exact refreshPins_lat r f i (by omega)

theorem refreshEvent_pin_lat_iff (f : Frame) (K : Nat) :
    (refreshEvent Params.chip f K).pin = .lat ↔ K % 582 = 0 ∨ K % 582 = 581 := by
  obtain ⟨i, k, hk, rfl, hmod⟩ := exists_cycle_offset K
  rw [hmod, refreshEvent_cycle f i hk, cycleEvent_pin_lat_iff f i hk]

/-- Every data write is clocked in at once (R180(b)). -/
theorem refreshEvent_data_pulse (f : Frame) {K : Nat} (h : (refreshEvent Params.chip f K).pin = .data) :
    refreshEvent Params.chip f (K + 1) = ⟨false, .clk⟩ ∧ refreshEvent Params.chip f (K + 2) = ⟨true, .clk⟩ := by
  obtain ⟨i, k, hk, rfl, -⟩ := exists_cycle_offset K
  rw [refreshEvent_cycle f i hk] at h
  obtain ⟨b, hb, rfl⟩ := cycleEvent_pin_data f i hk h
  rw [show 582 * i + (1 + 3 * b) + 1 = 582 * i + (2 + 3 * b) by omega,
    show 582 * i + (1 + 3 * b) + 2 = 582 * i + (3 + 3 * b) by omega,
    refreshEvent_cycle f i (by omega), refreshEvent_cycle f i (by omega)]
  exact ⟨cycleEvent_clkLow f i hb, cycleEvent_clkHigh f i hb⟩

/-- 192 bits are committed between the latch events of a row cycle (R180(e)). -/
theorem count_setClk_cycle (f : Frame) (i : Nat) :
    ((List.range 580).map fun j => refreshEvent Params.chip f (582 * i + 1 + j)).count ⟨true, .clk⟩ = 192 := by
  have hcycle : ((List.range 580).map fun j => refreshEvent Params.chip f (582 * i + 1 + j)) =
      (List.range 580).map fun j => cycleEvent Params.chip f i (1 + j) := by
    refine List.map_congr_left fun j hj => ?_
    have hj580 := List.mem_range.mp hj
    rw [Nat.add_assoc, refreshEvent_cycle f i (by omega)]
  rw [hcycle, map_cycleEvent_inner, List.count_append, count_setClk_shiftBits, count_setClk_setAddr]

/-- Settles O54: every clause is read off the closed form at the offset in the row cycle, the two about pin levels by
replaying the events before. -/
theorem refreshOrderingGuarantees : Obligations.RefreshOrderingGuarantees := by
  intro r f
  refine ⟨fun _ _ => refreshPins_lat_of_setClk r f, fun K _ => refreshEvent_pin_lat_iff f K,
    fun _ _ => refreshEvent_data_pulse f, fun i hi => ?cycle⟩
  case cycle =>
    have hevent {k : Nat} (hk : k < 582) := refreshEvent_cycle f i hk
    have haddress {j : Nat} (hj : j < 4) :
        (refreshEvent Params.chip f (582 * i + (577 + j))).pin = addrPin (BitVec.ofNat 2 j) := by
      rw [hevent (by omega), cycleEvent_address f i hj]
      rfl
    refine ⟨hevent (k := 0) (by decide), hevent (k := 581) (by decide),
      (hevent (k := 576) (by decide)).trans (cycleEvent_clkHigh f i (b := 191) (by decide)),
      haddress (j := 0) (by decide), haddress (j := 1) (by decide), haddress (j := 2) (by decide),
      haddress (j := 3) (by decide), count_setClk_cycle f i, fun s hpin => ?_⟩
    exact addr_replayPins_setAddr hi (hpin.trans (refreshPins_setAddr r f i))

end Sys2Proof.Machine
end

section
/-! SUPPORT. The stepped refresh (R178, R243): each step of the sequencer issues the event of its position `K` (R27) and
goes on to the next. -/

namespace Sys2Proof.Machine

/-! ## Positions -/

section Positions

variable {s : State}

theorem position_disableLatch (hst : s.st = .disableLatch) : position s = 582 * s.idx.toNat := by
  simp only [position, hst]

theorem position_shift (hst : s.st = .shiftRowPairBits) :
    position s = 582 * s.idx.toNat + (1 + 3 * s.bitNum + phaseNum s.ph) := by
  simp only [position, hst, State.bitNum, Nat.add_assoc]

theorem position_setRowAddress (hst : s.st = .setRowAddress) :
    position s = 582 * s.idx.toNat + (577 + s.ab.toNat) := by
  simp only [position, hst, Nat.add_assoc]

theorem position_enableLatch (hst : s.st = .enableLatch) : position s = 582 * s.idx.toNat + 581 := by
  simp only [position, hst]

/-- The counters name one of the 192 bits of a row pair (R94). -/
theorem bitNum_lt (s : State) : s.bitNum < 192 := by
  have hhalf := s.half.isLt
  have hch := channelNum_lt s.ch
  have hcol := s.col.isLt
  unfold State.bitNum
  omega

/-- After `n` bits of a row pair, `3*n` events have followed the first of the row cycle. -/
theorem position_of_countersAfter {n : Nat} (hn : n ≤ 192) (hph : s.ph = .data) (h : s.CountersAfter n) :
    position s = 582 * s.idx.toNat + (1 + 3 * n) := by
  rcases Nat.lt_or_ge n 192 with hlt | hge
  · obtain ⟨hst, hnum⟩ := (countersAfter_of_lt hlt).mp h
    rw [position_shift hst, hnum, hph]
    rfl
  · obtain rfl : n = 192 := Nat.le_antisymm hn hge
    obtain ⟨hst, -, -, -, hab⟩ := h
    rw [position_setRowAddress hst, hab]
    rfl

/-- Position 9311 is the last step of EnableLatch, at index 15 (R106). -/
theorem position_eq_last_iff : position s = 9311 ↔ s.st = .enableLatch ∧ s.idx = 15#4 := by
  have hidx := s.idx.isLt
  cases hst : s.st with
  | idle => simp [position, hst]
  | disableLatch => rw [position_disableLatch hst]; exact iff_of_false (by omega) nofun
  | shiftRowPairBits =>
    have hnum := bitNum_lt s
    have hph : phaseNum s.ph < 3 := by cases s.ph <;> decide
    rw [position_shift hst]
    exact iff_of_false (by omega) nofun
  | setRowAddress =>
    have hab := s.ab.isLt
    rw [position_setRowAddress hst]
    exact iff_of_false (by omega) nofun
  | enableLatch => rw [position_enableLatch hst, idx_eq_last_iff]; simp; omega

end Positions

/-! ## One step -/

/-- The counters that no later step of the row cycle resets are back at 0 (R38). It is the part of `State.Inv` that
holds from the first event of a refresh on, whatever the counters were in Idle. -/
def State.CountersRest (s : State) : Prop :=
  (s.st = .setRowAddress ∨ s.st = .enableLatch → s.half = 0#1 ∧ s.ch = .blue ∧ s.col = 0#5 ∧ s.ph = .data) ∧
  (s.st = .enableLatch → s.ab = 0#2)

theorem countersRest_of_countersAfter {s : State} {n : Nat} (hph : s.ph = .data) (h : s.CountersAfter n) :
    s.CountersRest ∧ s.st ≠ .idle := by
  unfold State.CountersAfter at h
  split at h
  · obtain ⟨hst, -⟩ := h
    simp [State.CountersRest, hst]
  · obtain ⟨hst, hhalf, hch, hcol, -⟩ := h
    simp [State.CountersRest, hst, hhalf, hch, hcol, hph]

/-- A step from `s` to `t` inside a refresh (R27, R178): the event of the position, and on to the next. -/
structure RefreshStep (s t : State) : Prop where
  trace : t.trace = s.trace ++ [refreshEvent Params.chip s.fb.frame (position s)]
  position : position t = position s + 1
  counters : t.CountersRest
  st : t.st ≠ .idle
  busy : t.busy = s.busy
  fb : t.fb = s.fb
  inputs : t.inputs = s.inputs

section OneStep

variable {s : State}

/-- DisableLatch opens the row cycle (R172). -/
theorem disableStep_refresh (hst : s.st = .disableLatch) : RefreshStep s (disableStep Params.chip s) where
  trace := by
    rw [disableStep_trace, position_disableLatch hst, ← cycleEvent_first s.fb.frame s.idx.toNat]
    exact congrArg (s.trace ++ [·]) (refreshEvent_cycle s.fb.frame s.idx.toNat (k := 0) (by decide)).symm
  position := by
    rw [position_disableLatch hst, position_shift (s := disableStep Params.chip s) rfl]
    simp [disableStep, State.bitNum, channelNum, phaseNum]
  counters := by simp [State.CountersRest, disableStep]
  st := nofun
  busy := emit_busy ..
  fb := disableStep_fb ..
  inputs := emit_inputs ..

/-- The data step sends the bit that the counters name (R155). -/
theorem dataStep_refresh {p : Pixel} (hst : s.st = .shiftRowPairBits) (hph : s.ph = .data)
    (hbit : p.getLsbD (channelNum s.ch) = serialBit Params.chip s.fb.frame s.idx.toNat s.bitNum) :
    RefreshStep s { emit Params.chip .data (p.getLsbD (channelNum s.ch)) s with ph := .clkLow } where
  trace := by
    have hnum := bitNum_lt s
    rw [position_shift hst, hph, refreshEvent_cycle _ _ (by simp only [phaseNum]; omega)]
    refine (emit_trace ..).trans ?_
    rw [hbit]
    exact congrArg (s.trace ++ [·]) (cycleEvent_data _ _ hnum).symm
  position := by simp [position, hst, hph, phaseNum]
  counters := by simp [State.CountersRest, hst]
  st := by simp [hst]
  busy := emit_busy ..
  fb := emit_fb ..
  inputs := emit_inputs ..

theorem clockLowStep_refresh (hst : s.st = .shiftRowPairBits) (hph : s.ph = .clkLow) :
    RefreshStep s (clockLowStep Params.chip s) where
  trace := by
    have hnum := bitNum_lt s
    have hoffset : 1 + 3 * s.bitNum + phaseNum s.ph = 2 + 3 * s.bitNum := by simp only [hph, phaseNum]; omega
    rw [position_shift hst, hoffset, refreshEvent_cycle _ _ (by omega), cycleEvent_clkLow _ _ hnum]
    exact emit_trace ..
  position := by simp [clockLowStep, position, hst, hph, phaseNum]
  counters := by simp [clockLowStep, State.CountersRest, hst]
  st := by simp [clockLowStep, hst]
  busy := emit_busy ..
  fb := clockLowStep_fb ..
  inputs := emit_inputs ..

/-- The clock-high step counts on to the next bit, or to the entry of SetRowAddress (R157). -/
theorem clockHighStep_refresh (hst : s.st = .shiftRowPairBits) (hph : s.ph = .clkHigh) :
    RefreshStep s (clockHighStep Params.chip s) := by
  have hnum := bitNum_lt s
  have hphase : (clockHighStep Params.chip s).ph = .data := advance_ph ..
  have hbit : ({ emit Params.chip .clk true s with ph := .data } : State).bitNum = s.bitNum := by
    simp only [State.bitNum, emit_half, emit_ch, emit_col]
  have hcounters : (clockHighStep Params.chip s).CountersAfter (s.bitNum + 1) :=
    hbit ▸ advance_countersAfter ((emit_st ..).trans hst)
  have hoffset : 1 + 3 * s.bitNum + phaseNum s.ph = 3 + 3 * s.bitNum := by simp only [hph, phaseNum]; omega
  obtain ⟨hrest, hbusy⟩ := countersRest_of_countersAfter hphase hcounters
  refine ⟨?trace, ?position, hrest, hbusy, (advance_busy ..).trans (emit_busy ..), clockHighStep_fb ..,
    (advance_inputs ..).trans (emit_inputs ..)⟩
  case trace =>
    rw [position_shift hst, hoffset, refreshEvent_cycle _ _ (by omega), cycleEvent_clkHigh _ _ hnum]
    exact (advance_trace ..).trans (emit_trace ..)
  case position =>
    have hidx : (clockHighStep Params.chip s).idx = s.idx := (advance_idx ..).trans (emit_idx ..)
    rw [position_of_countersAfter (by omega) hphase hcounters, position_shift hst, hoffset, hidx]
    omega

/-- The event of the step of SetRowAddress, by numbers (R173). -/
theorem addressEvent_toNat (idx : BitVec 4) (ab : BitVec 2) :
    addressEvent idx.toNat ab.toNat = ⟨addrBit idx ab, addrPin ab⟩ := by
  rw [addressEvent, addrBit, BitVec.testBit_toNat, BitVec.ofNat_toNat, BitVec.setWidth_eq]

theorem addressStep_refresh (hst : s.st = .setRowAddress) (hrest : s.CountersRest) :
    RefreshStep s (addressStep Params.chip s) := by
  obtain ⟨hcounters, -⟩ := hrest
  obtain ⟨hhalf, hch, hcol, hph⟩ := hcounters (.inl hst)
  have hab := s.ab.isLt
  rw [addressStep_eq]
  refine ⟨?trace, ?position, ?counters, ?st, rfl, rfl, rfl⟩
  case trace =>
    rw [position_setRowAddress hst, refreshEvent_cycle _ _ (by omega), cycleEvent_address _ _ hab, addressEvent_toNat]
    rfl
  case position =>
    rw [position_setRowAddress hst]
    by_cases hlast : s.ab.toNat < 3
    · have hadd : (s.ab + 1#2).toNat = s.ab.toNat + 1 := by bv_omega
      simp only [if_pos hlast]
      refine (position_setRowAddress (by exact hst)).trans ?_
      simp only [hadd]
      rfl
    · have hab3 : s.ab.toNat = 3 := by omega
      simp only [if_neg hlast]
      rw [position_enableLatch rfl, hab3]
      rfl
  case counters =>
    refine ⟨fun _ => ⟨hhalf, hch, hcol, hph⟩, fun h => ?_⟩
    by_cases hlast : s.ab.toNat < 3
    · simp [hlast, hst] at h
    · simp [hlast]
  case st => by_cases hlast : s.ab.toNat < 3 <;> simp [hlast, hst]

/-- `SET LAT` is the last event of its row cycle (R175). -/
theorem enableStep_trace (hst : s.st = .enableLatch) :
    (enableStep Params.chip s).trace = s.trace ++ [refreshEvent Params.chip s.fb.frame (position s)] := by
  rw [position_enableLatch hst, refreshEvent_cycle _ _ (by decide), cycleEvent_last, enableStep_chip]
  split <;> exact emit_trace ..

/-- EnableLatch goes on to the next row cycle below index 15 (R175). -/
theorem enableStep_refresh (hst : s.st = .enableLatch) (hidx : s.idx ≠ 15#4) :
    RefreshStep s (enableStep Params.chip s) := by
  have heq : enableStep Params.chip s =
      { emit Params.chip .lat true s with idx := s.idx + 1#4, st := .disableLatch } := if_neg hidx
  refine ⟨enableStep_trace hst, ?position, ?counters, ?st, ?busy, enableStep_fb .., ?inputs⟩ <;> rw [heq]
  case position =>
    have hadd : (s.idx + 1#4).toNat = s.idx.toNat + 1 := by bv_omega
    rw [position_enableLatch hst, position_disableLatch rfl]
    simp only [hadd]
    omega
  case counters => simp [State.CountersRest]
  case st => nofun
  case busy => exact emit_busy ..
  case inputs => exact emit_inputs ..

/-- A step of the refresh before the last (R178, R243). -/
theorem step_refresh (hst : s.st ≠ .idle) (hin : s.inputs = []) (hfb : s.fb.complete) (hrest : s.CountersRest)
    (hlast : position s ≠ 9311) : ∃ t, step s = .next t ∧ RefreshStep s t := by
  cases hs : s.st with
  | idle => exact absurd hs hst
  | disableLatch => exact ⟨_, step_disableLatch hs hin, disableStep_refresh hs⟩
  | shiftRowPairBits =>
    rw [step_shift hs hin]
    cases hph : s.ph with
    | data =>
      obtain ⟨p, hread, hbit⟩ := read_of_complete hfb
      exact ⟨_, exec_shift_data hph hread, dataStep_refresh hs hph hbit⟩
    | clkLow => exact ⟨_, exec_shift_clkLow hph, clockLowStep_refresh hs hph⟩
    | clkHigh => exact ⟨_, exec_shift_clkHigh hph, clockHighStep_refresh hs hph⟩
  | setRowAddress =>
    rw [step_no_inputs hin, hs]
    exact ⟨_, rfl, addressStep_refresh hs hrest⟩
  | enableLatch =>
    rw [step_no_inputs hin, hs]
    exact ⟨_, rfl, enableStep_refresh hs fun hidx => hlast (position_eq_last_iff.mpr ⟨hs, hidx⟩)⟩

/-- The last step of a refresh ends in Idle with the sequencer as at reset (R175, R181). -/
theorem step_refresh_last (hin : s.inputs = []) (hrest : s.CountersRest) (hlast : position s = 9311) :
    ∃ t, step s = .next t ∧ t.trace = s.trace ++ [refreshEvent Params.chip s.fb.frame 9311] ∧
      t.SameControl State.reset ∧ t.busy = false ∧ t.fb = s.fb ∧ t.inputs = [] := by
  obtain ⟨hst, hidx⟩ := position_eq_last_iff.mp hlast
  obtain ⟨hcounters, hab⟩ := hrest
  obtain ⟨hhalf, hch, hcol, hph⟩ := hcounters (.inr hst)
  have heq : enableStep Params.chip s =
      { emit Params.chip .lat true s with idx := 0#4, busy := false, st := .idle } := if_pos hidx
  rw [step_no_inputs hin, hst]
  refine ⟨_, rfl, hlast ▸ enableStep_trace hst, ?control, ?busy, enableStep_fb .., ?inputs⟩ <;> rw [heq]
  case control =>
    simp only [State.SameControl, emit_half, emit_ch, emit_col, emit_ph, emit_ab, hhalf, hch, hcol, hph, hab hst]
    exact ⟨rfl, rfl, rfl, rfl, rfl, rfl, rfl⟩
  case inputs => exact (emit_inputs ..).trans hin

end OneStep

/-! ## The run -/

/-- `n` events into a refresh that began in `s` (R178): the first `n` events of the closed form are in the trace, and
the sequencer stands at position `n`. -/
structure RefreshAt (s : State) (n : Nat) (t : State) : Prop where
  trace : t.trace = s.trace ++ (List.range n).map (refreshEvent Params.chip s.fb.frame)
  position : position t = n
  counters : t.CountersRest
  st : t.st ≠ .idle
  busy : t.busy = true
  fb : t.fb = s.fb
  inputs : t.inputs = []

section Run

variable {s : State}

/-- `START` is the beginning of a refresh (R170). -/
theorem step_start_refresh (hst : s.st = .idle) (hbusy : s.busy = false) (hin : s.inputs = [.host (.cmd 1#1)]) :
    ∃ t, step s = .next t ∧ RefreshAt s 0 t := by
  refine ⟨_, (step_request (.inl ⟨hin, hbusy⟩)).trans (exec_start_idle hst), ?_⟩
  exact ⟨(List.append_nil _).symm, rfl, by simp [State.CountersRest], nofun, rfl, rfl, rfl⟩

theorem RefreshAt.step {t : State} {n : Nat} (h : RefreshAt s n t) (hfb : s.fb.complete) (hn : n ≠ 9311) :
    ∃ u, Machine.step t = .next u ∧ RefreshAt s (n + 1) u := by
  obtain ⟨u, hstep, hu⟩ := step_refresh h.st h.inputs (h.fb ▸ hfb) h.counters (h.position ▸ hn)
  refine ⟨u, hstep, ?trace, hu.position.trans (congrArg (· + 1) h.position), hu.counters, hu.st, hu.busy.trans h.busy,
    hu.fb.trans h.fb, hu.inputs.trans h.inputs⟩
  case trace =>
    rw [hu.trace, h.trace, h.fb, h.position, List.range_succ, List.map_append, List.append_assoc]
    rfl

/-- `START` and `n` steps issue the first `n` events of the closed form (R178, R243). -/
theorem run_refresh (hst : s.st = .idle) (hbusy : s.busy = false) (hin : s.inputs = [.host (.cmd 1#1)])
    (hfb : s.fb.complete) {n : Nat} (hn : n < 9312) : ∃ t, core.run (1 + n) s = .next t ∧ RefreshAt s n t := by
  induction n with
  | zero =>
    obtain ⟨t, hstep, ht⟩ := step_start_refresh hst hbusy hin
    exact ⟨t, run_succ_of_next 0 hstep, ht⟩
  | succ n ih =>
    obtain ⟨t, hrun, ht⟩ := ih (by omega)
    obtain ⟨u, hstep, hu⟩ := ht.step hfb (by omega)
    exact ⟨u, (run_add (1 + n) 1 hrun).trans (run_succ_of_next 0 hstep), hu⟩

end Run

/-- Settles O49: 9311 steps inside the refresh, and the one that ends it. -/
theorem refreshTraceIsClosedForm : Obligations.RefreshTraceIsClosedForm := by
  intro s hst hbusy hin hfb
  refine ⟨?complete, fun n hn => ?before⟩
  case complete =>
    obtain ⟨t, hrun, ht⟩ := run_refresh hst hbusy hin hfb (n := 9311) (by decide)
    obtain ⟨u, hstep, htrace, hcontrol, hidle, hufb, huin⟩ := step_refresh_last ht.inputs ht.counters ht.position
    obtain ⟨hust, hidx, hhalf, hch, hcol, hph, hab⟩ := hcontrol
    refine ⟨u, (run_add (1 + 9311) 1 hrun).trans (run_succ_of_next 0 hstep), ?trace, hust, hidle, hidx, hhalf, hch,
      hcol, hph, hab, hufb.trans ht.fb, huin⟩
    case trace =>
      rw [htrace, ht.trace, ht.fb, List.range_succ (n := 9311), List.map_append, List.append_assoc]
      rfl
  case before =>
    obtain ⟨t, hrun, ht⟩ := run_refresh hst hbusy hin hfb hn
    exact ⟨t, hrun, ht.busy, ht.trace⟩

end Sys2Proof.Machine
end

section
/-! SUPPORT. One row cycle with `FAULT` at 0 (R176, R207): the four address writes, and what the panel shows after
`SET LAT`. -/

namespace Sys2Proof.Machine

/-! ## The address writes -/

/-- The first `n` of the four address writes of index `i` (R173). -/
def addressEvents (i n : Nat) : List PinEvent := (List.range n).map (addressEvent i)

theorem addressEvents_succ (i n : Nat) : addressEvents i (n + 1) = addressEvents i n ++ [addressEvent i n] := by
  simp [addressEvents, List.range_succ]

/-- What the first `n` steps of SetRowAddress make of `s` (R173): the pins, the trace and the sequencer's next write. -/
def State.afterAddress (s : State) (n : Nat) : State :=
  { s with
    pin := replayPins s.pin (addressEvents s.idx.toNat n)
    trace := s.trace ++ addressEvents s.idx.toNat n
    ab := BitVec.ofNat 2 n
    st := if n < 4 then .setRowAddress else .enableLatch }

/-- One step of SetRowAddress is one more address write (R173). -/
theorem addressStep_afterAddress {s : State} (hf : s.fault = none) {n : Nat} (hn : n < 4) :
    addressStep Params.chip (s.afterAddress n) = s.afterAddress (n + 1) := by
  have hab : (BitVec.ofNat 2 n).toNat = n := Nat.mod_eq_of_lt hn
  have hevent : addressEvent s.idx.toNat n = ⟨addrBit s.idx (BitVec.ofNat 2 n), addrPin (BitVec.ofNat 2 n)⟩ := by
    rw [← addressEvent_toNat, hab]
  have hnext : (if n < 3 then BitVec.ofNat 2 n + 1#2 else 0#2) = BitVec.ofNat 2 (n + 1) := by
    interval_cases n <;> rfl
  have hst : (if n < 3 then if n < 4 then SeqState.setRowAddress else .enableLatch else .enableLatch) =
      if n + 1 < 4 then .setRowAddress else .enableLatch := by
    interval_cases n <;> rfl
  have hfault : (s.afterAddress n).fault = none := hf
  rw [addressStep_eq, afterEvent_eq hfault]
  simp only [State.afterAddress, addressEvents_succ, hevent, hab, hnext, hst, replayPins, List.foldl_append,
    List.foldl_cons, List.foldl_nil, List.append_assoc]

/-- The first `n` of the four steps of SetRowAddress (R173). -/
theorem run_afterAddress {s : State} (hst : s.st = .setRowAddress) (hab : s.ab = 0#2) (hin : s.inputs = [])
    (hf : s.fault = none) {n : Nat} (hn : n ≤ 4) : core.run n s = .next (s.afterAddress n) := by
  induction n with
  | zero =>
    have hzero : s.afterAddress 0 = s := by
      simp [State.afterAddress, addressEvents, replayPins, ← hst, ← hab]
    rw [hzero, run_zero]
  | succ n ih =>
    have hstate : (s.afterAddress n).st = .setRowAddress := if_pos (by omega)
    have hstep : step (s.afterAddress n) = .next (s.afterAddress (n + 1)) := by
      rw [step_no_inputs (s := s.afterAddress n) hin, hstate, ← addressStep_afterAddress hf (by omega)]
      rfl
    exact (run_add n 1 (ih (by omega))).trans (run_succ_of_next 0 hstep)

/-- After the fourth write the index is on the address lines (R173, R268). -/
theorem addr_afterAddress (s : State) : addr (s.afterAddress 4) = s.idx :=
  BitVec.eq_of_toNat_eq (addr_replayPins_setAddr s.idx.isLt rfl)

/-- The address writes leave the other pins alone. -/
theorem lat_afterAddress (s : State) : level (s.afterAddress 4).pin .lat = level s.pin .lat := by
  have hpin : (s.afterAddress 4).pin = replayPins s.pin (setAddr s.idx.toNat) := rfl
  rw [hpin]
  simp [replayPins, setAddr, wr, level_setLevel]

/-! ## The row cycle -/

/-- `CLR LAT` disables the latch and marks no fault (R172). -/
theorem disableStep_latOff {s : State} (hf : s.fault = none) :
    (disableStep Params.chip s).fault = none ∧ level (disableStep Params.chip s).pin .lat = false := by
  rw [disableStep_chip, emit_lat_low, afterEvent_eq hf]
  exact ⟨hf, level_setLevel_same ..⟩

/-- What the 576 steps of ShiftRowPairBits leave for the rest of the row cycle (R154, R160). -/
structure PairShifted (s t : State) : Prop where
  st : t.st = .setRowAddress
  ab : t.ab = 0#2
  idx : t.idx = s.idx
  inputs : t.inputs = []
  fault : t.fault = none
  lat : level t.pin .lat = false
  trace : t.trace = s.trace ++ shiftPair Params.chip s.fb.frame s.idx.toNat
  chain : ∀ half ch col, half < 2 → col < 32 →
    t.sr.getLsbD (191 - (96 * half + 32 * channelNum ch + col)) = s.fb.frame (s.idx.toNat + 16 * half) col ch

theorem run_shiftPair {s : State} (hst : s.st = .shiftRowPairBits) (hhalf : s.half = 0#1) (hch : s.ch = .blue)
    (hcol : s.col = 0#5) (hph : s.ph = .data) (hin : s.inputs = []) (hf : s.fault = none)
    (hlat : level s.pin .lat = false) (hfb : s.fb.complete) :
    ∃ t, core.run 576 s = .next t ∧ PairShifted s t := by
  obtain ⟨t, hrun, htst, -, -, -, -, htab, htidx, htf, htrace, hchain, -, -, -, htlat, -⟩ :=
    shiftPairFillsChain s hst hhalf hch hcol hph hin hf hlat hfb
  have hentry : s.CountersAfter 0 := ⟨hst, by simp [State.bitNum, hhalf, hch, hcol, channelNum]⟩
  obtain ⟨u, hrunBits, hu, -⟩ := run_bitsSent (.zero hph hin hf) hentry hlat hfb (Nat.le_refl 192)
  obtain rfl : t = u := Host.Outcome.next.inj (hrun.symm.trans hrunBits)
  exact ⟨t, hrun, htst, htab, htidx, hu.inputs, htf, htlat, htrace, hchain⟩

/-- What the whole row cycle leaves (R176): its events in the trace, the index on the address lines, and the two rows in
the output stage. -/
structure RowShown (s t : State) : Prop where
  fault : t.fault = none
  addr : addr t = s.idx
  trace : t.trace = s.trace ++ rowCycle Params.chip s.fb.frame s.idx.toNat
  out : ∀ half ch c, half < 2 → c < 32 →
    t.out.getLsbD (191 - (96 * half + 32 * channelNum ch + c)) = s.fb.frame (s.idx.toNat + 16 * half) c ch

/-- `SET LAT` puts the chain into the output stage (R175, R203). -/
theorem enableStep_rise {s : State} (hf : s.fault = none) (hlat : level s.pin .lat = false) :
    let t := enableStep Params.chip s
    t.fault = none ∧ addr t = addr s ∧ t.trace = s.trace ++ latOn Params.chip ∧ t.out = s.sr := by
  dsimp only
  rw [enableStep_chip, emit_lat_rise s hlat, afterEvent_eq hf]
  split <;> exact ⟨hf, by simp [addr, level_setLevel], rfl, rfl⟩

/-- `ROWCYCLE` (R176): 582 steps from DisableLatch, whatever the chain, the output stage and the pins held. -/
theorem run_rowCycle {s : State} (hst : s.st = .disableLatch) (hin : s.inputs = []) (hf : s.fault = none)
    (hfb : s.fb.complete) : ∃ t, core.run 582 s = .next t ∧ RowShown s t := by
  obtain ⟨hoffFault, hoffLat⟩ := disableStep_latOff hf
  obtain ⟨t, hshift, ht⟩ := run_shiftPair (s := disableStep Params.chip s) rfl rfl rfl rfl rfl
    ((emit_inputs ..).trans hin) hoffFault hoffLat ((disableStep_fb _ s).symm ▸ hfb)
  have htidx : t.idx = s.idx := ht.idx.trans (disableStep_idx ..)
  have haddress := run_afterAddress ht.st ht.ab ht.inputs ht.fault (Nat.le_refl 4)
  have hon : step (t.afterAddress 4) = .next (enableStep Params.chip (t.afterAddress 4)) :=
    step_no_inputs (s := t.afterAddress 4) ht.inputs
  obtain ⟨hfault, haddr, htrace, hout⟩ :=
    enableStep_rise (s := t.afterAddress 4) ht.fault ((lat_afterAddress t).trans ht.lat)
  have hrun : core.run 582 s = .next (enableStep Params.chip (t.afterAddress 4)) :=
    calc core.run 582 s
      _ = core.run (576 + 5) _ := run_succ_of_next 581 (step_disableLatch hst hin)
      _ = core.run (4 + 1) t := run_add 576 5 hshift
      _ = core.run 1 (t.afterAddress 4) := run_add 4 1 haddress
      _ = _ := run_succ_of_next 0 hon
  refine ⟨_, hrun, hfault, haddr.trans ((addr_afterAddress t).trans htidx), ?trace, ?out⟩
  case trace =>
    have hset : (t.afterAddress 4).trace = t.trace ++ setAddr t.idx.toNat := rfl
    rw [htrace, hset, ht.trace, htidx, disableStep_trace, disableStep_fb, disableStep_idx]
    simp only [rowCycle, List.append_assoc]
    rfl
  case out =>
    rw [hout, ← disableStep_fb Params.chip s, ← disableStep_idx Params.chip s]
    exact ht.chain

/-- An output stage that holds rows `ADDR` and `ADDR + 16` shows exactly their bits (R205, R207). -/
theorem lit_of_out {t : State} {f : Frame} (hout : ∀ half ch c, half < 2 → c < 32 →
    t.out.getLsbD (191 - (96 * half + 32 * channelNum ch + c)) = f ((addr t).toNat + 16 * half) c ch)
    {r c : Nat} (ch : Channel) (hr : r < 32) (hc : c < 32) :
    lit t r c ch = (decide (r % 16 = (addr t).toNat) && f r c ch) := by
  rw [lit, ledBit, hout (r / 16) ch c (by omega) hc]
  by_cases hrow : r % 16 = (addr t).toNat
  · have hsum : (addr t).toNat + 16 * (r / 16) = r := by omega
    simp [hrow, hsum]
  · simp [hrow]

/-- Settles O56: the row cycle puts the index on the address lines and its two rows in the output stage, which together
are what is lit. -/
theorem rowCycleShowsItsRows : Obligations.RowCycleShowsItsRows := by
  intro s hst hin hf hfb
  obtain ⟨t, hrun, ht⟩ := run_rowCycle hst hin hf hfb
  refine ⟨t, hrun, ht.fault, ht.addr, ht.trace, ht.out, fun r c ch hr hc => ?_⟩
  rw [← ht.addr]
  exact lit_of_out (ht.addr ▸ ht.out) ch hr hc

end Sys2Proof.Machine
end

section
/-! SUPPORT. When the chain and the output stage change over a step (R201, R203). -/

namespace Sys2Proof.Machine

/-- A pin rises exactly where it was at 0 and the event writes it to 1 (R200). -/
theorem rises_setLevel_iff (r : PinReg) (e : PinEvent) (p : Pin) :
    (level r p = false ∧ level (setLevel r e.pin e.level) p = true) ↔ e = ⟨true, p⟩ ∧ level r p = false := by
  obtain ⟨v, q⟩ := e
  rw [level_setLevel]
  by_cases hp : p = q
  · subst hp
    simp [and_comm]
  · have hne : (⟨v, q⟩ : PinEvent) ≠ ⟨true, p⟩ := fun h => hp (congrArg PinEvent.pin h).symm
    simp [hp, hne]

/-- A pin event shifts the chain if `CLK` rises, and leaves it alone otherwise (R201). -/
theorem emit_sr (e : PinEvent) (s : State) :
    (emit Params.chip e.pin e.level s).sr =
      if level s.pin .clk = false ∧ level (setLevel s.pin e.pin e.level) .clk = true
      then shiftIn s.sr (level s.pin .data) else s.sr := by
  obtain ⟨-, -, hrise, hquiet, -⟩ := emit_outputs e s
  simp only [rises_setLevel_iff]
  split
  next h => exact hrise h
  next h => exact hquiet h

/-- A pin event that leaves `FAULT` at 0 transfers the chain if `LAT` rises, and leaves `OUT` alone otherwise (R203). -/
theorem emit_out {e : PinEvent} {s : State} (h : (emit Params.chip e.pin e.level s).fault = none) :
    (emit Params.chip e.pin e.level s).out =
      if level s.pin .lat = false ∧ level (setLevel s.pin e.pin e.level) .lat = true then s.sr else s.out := by
  obtain ⟨-, -, -, -, -, -, hout⟩ := emit_outputs e s
  simp only [rises_setLevel_iff]
  exact hout h

/-- A step issues no pin event, or one, which meets the pins, the chain and the output stage as the step found them: the
mark that a foreign event makes first (R209(b)) is in none of them. -/
theorem step_event {s t : State} (h : step s = .next t) :
    SameOutputs s t ∨ ∃ (e : PinEvent) (u : State), u.pin = s.pin ∧ u.sr = s.sr ∧ u.out = s.out ∧
      SameOutputs (emit Params.chip e.pin e.level u) t := by
  rcases step_outputs h with hsame | ⟨e, hemit⟩ | ⟨e, -, hemit⟩
  · exact .inl hsame
  · exact .inr ⟨e, s, rfl, rfl, rfl, hemit⟩
  · exact .inr ⟨e, raiseProtocol .foreignPinWrite s, rfl, rfl, rfl, hemit⟩

/-- A step that leaves the pin register alone makes no pin rise. -/
theorem not_rises_of_pin_eq {s t : State} (h : t.pin = s.pin) (p : Pin) :
    ¬ (level s.pin p = false ∧ level t.pin p = true) := by
  simp [h]

/-- What a step does to the chain (R201). -/
theorem step_sr {s t : State} (h : step s = .next t) :
    t.sr = if level s.pin .clk = false ∧ level t.pin .clk = true then shiftIn s.sr (level s.pin .data) else s.sr := by
  rcases step_event h with hsame | ⟨e, u, hpin, hsr, -, hemit⟩
  · rw [if_neg (not_rises_of_pin_eq hsame.pin .clk), hsame.sr]
  · rw [hemit.sr, hemit.pin, emit_pin, emit_sr, hpin, hsr]

/-- Settles O29: the chain is shifted by the one event that raises `CLK`, and `shiftIn` is read bit by bit. -/
theorem chainShiftsOnlyOnRisingClock : Obligations.ChainShiftsOnlyOnRisingClock := by
  intro s t h
  have hsr := step_sr h
  split
  next hrise =>
    rw [if_pos hrise] at hsr
    rw [hsr]
    exact ⟨shiftIn_zero .., fun _ hj => shiftIn_succ _ _ hj⟩
  next hquiet => rw [hsr, if_neg hquiet]

/-- Settles O30: without an event the output stage keeps its value, and with one it is what `emit_out` says. -/
theorem outputChangesOnlyOnLatchEnable : Obligations.OutputChangesOnlyOnLatchEnable := by
  intro s t h hfault
  rcases step_event h with hsame | ⟨e, u, hpin, hsr, hout, hemit⟩
  · rw [if_neg (not_rises_of_pin_eq hsame.pin .lat), hsame.out]
  · have hemitFault := hemit.fault.symm.trans hfault
    rw [hemit.out, hemit.pin, emit_pin, emit_out hemitFault, hpin, hsr, hout]

end Sys2Proof.Machine
end

section
/-! SUPPORT. The row-address decoder and what is visible (R204, R205), as views of the address lines and `OUT`. -/

namespace Sys2Proof.Machine

/-- The decoder's output is one-hot at `ADDR` (R204). -/
theorem selected_iff (s : State) (j : Nat) : selected s j = true ↔ j = (addr s).toNat := by
  simp [selected]

/-- Of the 32 physical rows, those of index `ADDR` are `ADDR` and `ADDR + 16` (R204). -/
theorem row_mod_eq_addr_iff (s : State) {r : Nat} (hr : r < 32) :
    r % 16 = (addr s).toNat ↔ r = (addr s).toNat ∨ r = (addr s).toNat + 16 := by
  have haddr := (addr s).isLt
  omega

/-- Settles O45: the one selected index is `ADDR`, which has four bits. -/
theorem decoderSelectsOne : Obligations.DecoderSelectsOne := by
  intro s
  refine ⟨fun j _ => selected_iff s j, ⟨(addr s).toNat, (addr s).isLt, ?self, ?unique⟩, fun r hr => ?rows⟩
  case self => exact (selected_iff s _).mpr rfl
  case unique => exact fun k => (selected_iff s k).mp
  case rows => rw [selected_iff, row_mod_eq_addr_iff s hr]

/-- A LED is lit when its row has the index on the address lines and its bit of `OUT` is 1 (R205). -/
theorem lit_iff (s : State) (r c : Nat) (ch : Channel) :
    lit s r c ch = true ↔ r % 16 = (addr s).toNat ∧ s.out.getLsbD (ledBit r c ch) = true := by
  simp [lit]

/-- Settles O46: a lit LED is in a row of index `ADDR`, so that every other row is dark. -/
theorem litFollowsOutputStage : Obligations.LitFollowsOutputStage := by
  intro s r c ch hr _
  refine ⟨lit_iff s r c ch, fun hrow hrow' => Bool.eq_false_iff.mpr fun hlit => ?dark⟩
  case dark =>
    have hindex := ((lit_iff s r c ch).mp hlit).1
    exact ((row_mod_eq_addr_iff s hr).mp hindex).elim hrow hrow'

end Sys2Proof.Machine
end

section
/-! SUPPORT. The mark `FAULT` (R34, R209): what one instruction and one step do to it. -/

namespace Sys2Proof.Machine

/-- A pin event newly sets `FAULT` exactly if `CLK` rises while `LAT` is 1 (R209(a)). -/
theorem emit_fault (e : PinEvent) (s : State) :
    (emit Params.chip e.pin e.level s).fault =
      if s.fault = none ∧ level s.pin .clk = false ∧ level (setLevel s.pin e.pin e.level) .clk = true ∧
        level s.pin .lat = true
      then some .shiftWhileLatched else s.fault := by
  obtain ⟨-, -, -, -, hmark, hkeep, -⟩ := emit_outputs e s
  rw [← rises_setLevel_iff, and_assoc] at hmark hkeep
  split
  next h => rw [hmark h.2, h.1]; rfl
  next h =>
    by_cases hlatched : level s.pin .clk = false ∧ level (setLevel s.pin e.pin e.level) .clk = true ∧
        level s.pin .lat = true
    · obtain ⟨r, hr⟩ := Option.ne_none_iff_exists'.mp fun hf => h ⟨hf, hlatched⟩
      rw [hmark hlatched, hr]; rfl
    · exact hkeep hlatched

/-- An instruction newly sets `FAULT` exactly if `CLK` rises while `LAT` is 1 (R209(a)). -/
theorem exec_fault {i : Instr} {s t : State} (h : exec i s = .next t) :
    t.fault = if s.fault = none ∧ level s.pin .clk = false ∧ level t.pin .clk = true ∧ level s.pin .lat = true
      then some .shiftWhileLatched else s.fault := by
  rcases exec_outputs h with hsame | ⟨e, hemit⟩
  · rw [hsame.fault, if_neg fun ⟨_, hlow, hhigh, _⟩ => not_rises_of_pin_eq hsame.pin .clk ⟨hlow, hhigh⟩]
  · rw [hemit.fault, hemit.pin, emit_pin, emit_fault]

/-- Settles O32: an instruction issues no event, or one, whose mark `emit_outputs` gives. -/
theorem faultOnlyOnLatchedShift : Obligations.FaultOnlyOnLatchedShift :=
  fun _ _ _ => exec_fault

/-- No step clears the mark (R34). -/
theorem step_fault_of_some {s t : State} {r : ProtocolFault} (hf : s.fault = some r) (h : step s = .next t) :
    t.fault = some r := by
  rcases step_outputs h with hsame | ⟨e, hemit⟩ | ⟨e, -, hemit⟩
  · exact hsame.fault.trans hf
  · exact hemit.fault.trans (emit_fault_of_some hf)
  · exact hemit.fault.trans (emit_fault_of_some (by simp [hf]))

/-- Settles O31: neither a pin event nor the mark of a foreign one changes a reason that stands. -/
theorem faultIsSticky : Obligations.FaultIsSticky :=
  fun _ _ _ => step_fault_of_some

end Sys2Proof.Machine
end

section
/-! SUPPORT. The invariants of the machine (R28, R30, R38, R101): each operation of the sequencer keeps them, and so does
each thing that comes from outside. -/

namespace Sys2Proof.Machine

/-! ## What ShiftRowPairBits and `START` do when they do not stop -/

/-- Everything ShiftRowPairBits can do when it does not stop: one of the steps R155, R156, R157. -/
theorem exec_shift_next {s t : State} (h : exec .shiftRowPairBits s = .next t) :
    (s.ph = .data ∧ ∃ v, t = { emit Params.chip .data v s with ph := .clkLow }) ∨
    (s.ph = .clkLow ∧ t = clockLowStep Params.chip s) ∨ (s.ph = .clkHigh ∧ t = clockHighStep Params.chip s) := by
  cases hph : s.ph with
  | data =>
    replace h : dataStep Params.chip s = .next t := by simpa only [exec, execShiftRowPairBits, hph] using h
    cases hread : s.fb.read (cellAddr Params.chip s.idx s.half s.col).toNat with
    | none => rw [dataStep_unwritten _ s hread] at h; cases h
    | some p => rw [dataStep_written _ s hread] at h; cases h; exact .inl ⟨rfl, _, rfl⟩
  | clkLow => rw [exec_shift_clkLow hph] at h; cases h; exact .inr (.inl ⟨rfl, rfl⟩)
  | clkHigh => rw [exec_shift_clkHigh hph] at h; cases h; exact .inr (.inr ⟨rfl, rfl⟩)

/-- ShiftRowPairBits writes `DATA` and `CLK` only (R155 to R157). -/
theorem exec_shift_level {s t : State} (h : exec .shiftRowPairBits s = .next t) {p : Pin} (hdata : p ≠ .data)
    (hclk : p ≠ .clk) : level t.pin p = level s.pin p := by
  rcases exec_shift_next h with ⟨-, v, rfl⟩ | ⟨-, rfl⟩ | ⟨-, rfl⟩
  · simp [level_setLevel_ne _ _ hdata]
  · simp [clockLowStep, level_setLevel_ne _ _ hclk]
  · simp [clockHighStep, level_setLevel_ne _ _ hclk]

/-- `START` answers a next state only in Idle (R170, R183). -/
theorem exec_start_next {s t : State} (h : exec .start s = .next t) :
    s.st = .idle ∧ t = { s with idx := 0#4, busy := true, st := .disableLatch } := by
  by_cases hst : s.st = .idle
  · rw [exec_start_idle hst] at h
    cases h
    exact ⟨hst, rfl⟩
  · rw [exec_start_refused hst] at h
    cases h

/-! ## The reachable values (R30, R38) -/

/-- `State.Inv` speaks of the sequencer's registers, `BUSY` and the frame buffer only. -/
theorem inv_of_sameControl {s t : State} (hinv : s.Inv) (hcontrol : s.SameControl t) (hbusy : t.busy = s.busy)
    (hfb : t.fb = s.fb) : t.Inv := by
  obtain ⟨hst, hidx, hhalf, hch, hcol, hph, hab⟩ := hcontrol
  rw [State.Inv, hfb, hbusy, ← hst, ← hidx, ← hhalf, ← hch, ← hcol, ← hph, ← hab]
  exact hinv

theorem emit_inv {s : State} (hinv : s.Inv) (c : Config) (p : Pin) (v : Bool) : (emit c p v s).Inv :=
  inv_of_sameControl hinv (emit_sameControl ..) (emit_busy ..) (emit_fb ..)

theorem disableStep_inv {s : State} (hinv : s.Inv) (hst : s.st = .disableLatch) : (disableStep Params.chip s).Inv := by
  obtain ⟨hwf, hbusy, -, hab, -⟩ := hinv
  simp [State.Inv, disableStep, hwf, hbusy, hst, hab]

/-- The counters carry into one another, and out of the last into SetRowAddress, all at 0 (R157). -/
theorem advance_inv {s : State} (hst : s.st = .shiftRowPairBits) (hinv : s.Inv) (hph : s.ph = .data) :
    (advance Params.chip s).Inv := by
  obtain ⟨hwf, hbusy, -, hab, -⟩ := hinv
  rw [advance_chip]
  split_ifs <;> simp [State.Inv, hwf, hbusy, hst, hab, hph]

theorem shiftStep_inv {s t : State} (hinv : s.Inv) (hst : s.st = .shiftRowPairBits)
    (h : exec .shiftRowPairBits s = .next t) : t.Inv := by
  have hphase (p : Pin) (v : Bool) (ph : Phase) : State.Inv { emit Params.chip p v s with ph := ph } := by
    obtain ⟨hwf, hbusy, -, hab, -⟩ := hinv
    simp [State.Inv, hwf, hbusy, hst, hab]
  rcases exec_shift_next h with ⟨-, v, rfl⟩ | ⟨-, rfl⟩ | ⟨-, rfl⟩
  · exact hphase ..
  · exact hphase ..
  · exact advance_inv ((emit_st ..).trans hst) (hphase ..) rfl

theorem addressStep_inv {s : State} (hinv : s.Inv) (hst : s.st = .setRowAddress) :
    (addressStep Params.chip s).Inv := by
  obtain ⟨hwf, hbusy, hcounters, -, -⟩ := hinv
  have hzero := hcounters (by simp [hst])
  rw [addressStep_eq]
  split <;> simp [State.Inv, State.afterEvent, hwf, hbusy, hst, hzero]

theorem enableStep_inv {s : State} (hinv : s.Inv) (hst : s.st = .enableLatch) : (enableStep Params.chip s).Inv := by
  obtain ⟨hwf, hbusy, hcounters, hab, -⟩ := hinv
  have hzero := hcounters (by simp [hst])
  rw [enableStep_chip]
  split <;> simp [State.Inv, hwf, hbusy, hst, hzero, hab]

/-- The operation that `ST` names keeps the reachable values (R38). -/
theorem exec_own_inv {s t : State} (hinv : s.Inv) (h : exec s.st.instr s = .next t) : t.Inv := by
  cases hst : s.st <;> rw [hst] at h
  case idle => cases h; exact hinv
  case disableLatch => cases h; exact disableStep_inv hinv hst
  case shiftRowPairBits => exact shiftStep_inv hinv hst h
  case setRowAddress => cases h; exact addressStep_inv hinv hst
  case enableLatch => cases h; exact enableStep_inv hinv hst

/-- `START` keeps the reachable values (R170). -/
theorem exec_start_inv {s t : State} (hinv : s.Inv) (h : exec .start s = .next t) : t.Inv := by
  obtain ⟨hst, rfl⟩ := exec_start_next h
  obtain ⟨hwf, -, hcounters, hab, -⟩ := hinv
  simp [State.Inv, hwf, hst, hcounters, hab]

/-- Settles O36: by what the step performs. A pin event changes none of the registers the invariant speaks of. -/
theorem stepKeepsReachableValues : Obligations.StepKeepsReachableValues := by
  intro s t hinv h
  rcases step_cases s with ⟨inp, hs⟩ | ⟨e, inp, hs, -⟩ | ⟨e, inp, hs, -⟩ | ⟨inp, hs⟩ | ⟨a, v, inp, hs⟩ | ⟨r, hs⟩ <;>
    rw [hs] at h
  · exact exec_own_inv (s := { s with inputs := inp }) hinv h
  · rw [exec_event] at h
    cases h
    exact emit_inv (s := { s with inputs := inp }) hinv ..
  · rw [exec_event] at h
    cases h
    exact emit_inv (s := raiseProtocol _ { s with inputs := inp }) hinv ..
  · exact exec_start_inv (s := { s with inputs := inp }) hinv h
  · obtain ⟨-, rfl⟩ := hostWrite_next h
    exact ⟨Memory.wf_write a v hinv.1, hinv.2⟩
  · cases h

/-! ## The latch window (R101, R266) -/

/-- A mark that is 0 after an instruction was 0 before it (R34). -/
theorem exec_fault_none {i : Instr} {s t : State} (h : exec i s = .next t) (hf : t.fault = none) : s.fault = none := by
  rw [exec_fault h] at hf
  split at hf
  · cases hf
  · exact hf

/-- SetRowAddress writes address lines only (R173). -/
theorem addressStep_lat (s : State) : level (addressStep Params.chip s).pin .lat = level s.pin .lat := by
  rw [addressStep_eq]
  exact level_setLevel_ne _ _ (addrPin_ne_lat _).symm

theorem enableStep_st (s : State) :
    (enableStep Params.chip s).st = if s.idx.toNat < 15 then .disableLatch else .idle := by
  simp only [enableStep_chip, idx_eq_last_iff, ite_not]
  split <;> rfl

/-- The operation that `ST` names keeps the latch disabled from DisableLatch to EnableLatch (R101). -/
theorem exec_own_latchInv {s t : State} (hlat : s.LatchInv) (h : exec s.st.instr s = .next t) : t.LatchInv := by
  intro hf hwindow
  have hsf := exec_fault_none h hf
  cases hst : s.st <;> rw [hst] at h
  case idle => cases h; exact hlat hf hwindow
  case disableLatch => cases h; exact (disableStep_latOff hsf).2
  case shiftRowPairBits => exact (exec_shift_level (p := .lat) h nofun nofun).trans (hlat hsf (.inl hst))
  case setRowAddress => cases h; exact (addressStep_lat s).trans (hlat hsf (.inr (.inl hst)))
  case enableLatch =>
    cases h
    change (enableStep Params.chip s).st = _ ∨ _ at hwindow
    rw [enableStep_st] at hwindow
    split at hwindow <;> simp at hwindow

/-- Outside ShiftRowPairBits, SetRowAddress and EnableLatch there is nothing to keep. -/
theorem latchInv_of_st {s : State} (h : s.st = .idle ∨ s.st = .disableLatch) : s.LatchInv := by
  rintro - hwindow
  rcases h with h | h <;> simp [h] at hwindow

/-- Settles O37: by what the step performs. A pin event from outside comes in Idle, or sets the mark; `START` leads to
DisableLatch. -/
theorem stepKeepsLatchDisabled : Obligations.StepKeepsLatchDisabled := by
  intro s t hinv hlat h
  obtain ⟨-, hbusy, -⟩ := hinv
  rcases step_cases s with ⟨inp, hs⟩ | ⟨e, inp, hs, hb⟩ | ⟨e, inp, hs, -⟩ | ⟨inp, hs⟩ | ⟨a, v, inp, hs⟩ | ⟨r, hs⟩ <;>
    rw [hs] at h
  · exact exec_own_latchInv (s := { s with inputs := inp }) hlat h
  · have hst : s.st = .idle := by simpa [hb] using hbusy
    rw [exec_event] at h
    cases h
    exact latchInv_of_st (.inl ((emit_st ..).trans hst))
  · intro hf
    cases exec_fault_none h hf
  · obtain ⟨-, rfl⟩ := exec_start_next h
    exact latchInv_of_st (.inr rfl)
  · obtain ⟨-, rfl⟩ := hostWrite_next h
    exact hlat
  · cases h

end Sys2Proof.Machine
end

section
/-! SUPPORT. Runs of the sequencer left to itself (R178, R209, R233), and what the panel shows meanwhile (R266). -/

namespace Sys2Proof.Machine

/-! ## The pins and the trace (R28, R36) -/

theorem replayPins_concat (r : PinReg) (es : List PinEvent) (e : PinEvent) :
    replayPins r (es ++ [e]) = setLevel (replayPins r es) e.pin e.level := by
  simp [replayPins]

/-- A step leaves the pins and the trace alone, or writes one event to both (R130). -/
theorem step_pin_trace {s t : State} (h : step s = .next t) :
    t.pin = s.pin ∧ t.trace = s.trace ∨
      ∃ e : PinEvent, t.pin = setLevel s.pin e.pin e.level ∧ t.trace = s.trace ++ [e] := by
  rcases step_outputs h with hsame | ⟨e, hemit⟩ | ⟨e, -, hemit⟩
  · exact .inl ⟨hsame.pin, hsame.trace⟩
  · exact .inr ⟨e, by rw [hemit.pin, emit_pin], by rw [hemit.trace, emit_trace]⟩
  · exact .inr ⟨e, by rw [hemit.pin, emit_pin, raiseProtocol_pin], by rw [hemit.trace, emit_trace, raiseProtocol_trace]⟩

/-- Settles O38: replaying one more event is writing its level. -/
theorem stepKeepsPinsFollowTrace : Obligations.StepKeepsPinsFollowTrace := by
  intro s t hpins h
  rcases step_pin_trace h with ⟨hpin, htrace⟩ | ⟨e, hpin, htrace⟩
  · rw [State.PinsFollowTrace, hpin, htrace]
    exact hpins
  · rw [State.PinsFollowTrace, hpin, htrace, replayPins_concat, ← hpins]

/-! ## No instruction takes an input -/

theorem exec_shift_inputs {s t : State} (h : exec .shiftRowPairBits s = .next t) : t.inputs = s.inputs := by
  rcases exec_shift_next h with ⟨-, v, rfl⟩ | ⟨-, rfl⟩ | ⟨-, rfl⟩
  · exact emit_inputs ..
  · exact emit_inputs ..
  · exact (advance_inputs ..).trans (emit_inputs ..)

theorem exec_inputs {i : Instr} {s t : State} (h : exec i s = .next t) : t.inputs = s.inputs := by
  cases i
  case idle => cases h; rfl
  case disableLatch => cases h; exact emit_inputs ..
  case shiftRowPairBits => exact exec_shift_inputs h
  case setRowAddress => cases h; rw [addressStep_eq]; rfl
  case enableLatch => cases h; rw [enableStep_chip]; split <;> exact emit_inputs ..
  case start => obtain ⟨-, rfl⟩ := exec_start_next h; rfl
  all_goals cases h; exact emit_inputs ..

/-! ## The sequencer and the monitor (R209, R233) -/

/-- With the latch disabled, no instruction sets `FAULT` (R209(a)). -/
theorem exec_fault_of_lat {i : Instr} {s t : State} (hf : s.fault = none) (hlat : level s.pin .lat = false)
    (h : exec i s = .next t) : t.fault = none := by
  rw [exec_fault h, if_neg (by simp [hlat]), hf]

/-- The operation that `ST` names never sets `FAULT`: it shifts with the latch disabled only (R101, R209). -/
theorem exec_own_fault {s t : State} (hf : s.fault = none) (hlat : s.LatchInv) (h : exec s.st.instr s = .next t) :
    t.fault = none := by
  cases hst : s.st <;> rw [hst] at h
  case idle => cases h; exact hf
  case disableLatch => cases h; exact (disableStep_latOff hf).1
  case shiftRowPairBits => exact exec_fault_of_lat hf (hlat hf (.inl hst)) h
  case setRowAddress => exact exec_fault_of_lat hf (hlat hf (.inr (.inl hst))) h
  case enableLatch => exact exec_fault_of_lat hf (hlat hf (.inr (.inr hst))) h

/-- What an undisturbed run keeps (R101, R209): nothing to come, `FAULT` at 0 and the latch window. -/
structure Unmarked (s : State) : Prop where
  inputs : s.inputs = []
  fault : s.fault = none
  latch : s.LatchInv

theorem Unmarked.step {s t : State} (hs : Unmarked s) (h : Machine.step s = .next t) : Unmarked t := by
  rw [step_no_inputs hs.inputs] at h
  exact ⟨(exec_inputs h).trans hs.inputs, exec_own_fault hs.fault hs.latch h, exec_own_latchInv hs.latch h⟩

theorem Unmarked.run {n : Nat} {s t : State} (hs : Unmarked s) (h : core.run n s = .next t) : Unmarked t := by
  induction n generalizing s with
  | zero => cases h; exact hs
  | succ n ih =>
    obtain ⟨u, hstep, hrun⟩ := run_succ_next h
    exact ih (hs.step hstep) hrun

/-- Settles O39: by induction on the number of steps. -/
theorem sequencerNeverFaults : Obligations.SequencerNeverFaults :=
  fun _ _ _ _ hlat hf hin h => (Unmarked.run ⟨hin, hf, hlat⟩ h).fault

/-! ## What is visible while a row pair is shifted (R203, R208, R266) -/

/-- DisableLatch and ShiftRowPairBits leave the address lines alone. -/
theorem exec_own_addr {s t : State} (hst : s.st = .disableLatch ∨ s.st = .shiftRowPairBits)
    (h : exec s.st.instr s = .next t) : addr t = addr s := by
  have hlines (p : Pin) (hdata : p ≠ .data) (hclk : p ≠ .clk) (hlat : p ≠ .lat) : level t.pin p = level s.pin p := by
    rcases hst with hst | hst <;> rw [hst] at h
    · cases h
      exact (congrArg (level · p) (emit_pin ..)).trans (level_setLevel_ne _ _ hlat)
    · exact exec_shift_level h hdata hclk
  simp [addr, hlines]

/-- DisableLatch and ShiftRowPairBits leave the output stage alone (R203): `LAT` does not rise. -/
theorem exec_own_out {s t : State} (hs : Unmarked s) (hst : s.st = .disableLatch ∨ s.st = .shiftRowPairBits)
    (h : exec s.st.instr s = .next t) : t.out = s.out := by
  have hlat : level t.pin .lat = false := by
    rcases hst with hst | hst <;> rw [hst] at h
    · cases h
      exact (disableStep_latOff hs.fault).2
    · exact (exec_shift_level (p := .lat) h nofun nofun).trans (hs.latch hs.fault (.inl hst))
  have hout := outputChangesOnlyOnLatchEnable s t (by rw [step_no_inputs hs.inputs, h])
    (exec_own_fault hs.fault hs.latch h)
  rw [hout, if_neg (by simp [hlat])]

/-- Settles O40: what is lit depends on the address lines and the output stage only. -/
theorem shiftingIsInvisible : Obligations.ShiftingIsInvisible := by
  intro s t hf hlat hin hst h r c ch
  rw [step_no_inputs hin] at h
  rw [lit, lit, exec_own_addr hst h, exec_own_out ⟨hin, hf, hlat⟩ hst h]

/-! ## One step of a refresh (R178) -/

/-- The counters at rest are a part of the reachable values (R38). -/
theorem countersRest_of_inv {s : State} (hinv : s.Inv) : s.CountersRest := by
  obtain ⟨-, -, hcounters, hab, -⟩ := hinv
  refine ⟨fun hst => hcounters ?_, fun hst => hab ?_⟩
  · rcases hst with hst | hst <;> simp [hst]
  · simp [hst]

/-- Settles O48: `step_refresh` before the last position, `step_refresh_last` at it. -/
theorem stepEmitsEventAtPosition : Obligations.StepEmitsEventAtPosition := by
  intro s hinv hbusy hin hfb
  have hrest := countersRest_of_inv hinv
  by_cases hlast : position s = 9311
  · obtain ⟨t, hstep, htrace, ⟨hst, -⟩, htbusy, htfb, htin⟩ := step_refresh_last hin hrest hlast
    simp only [hlast, if_true]
    exact ⟨t, hstep, htrace, htfb, htin, hst, htbusy⟩
  · obtain ⟨-, hst, -⟩ := hinv
    obtain ⟨t, hstep, ht⟩ := step_refresh (hst.mp hbusy) hin hfb hrest hlast
    simp only [if_neg hlast]
    exact ⟨t, hstep, ht.trace, ht.fb, ht.inputs.trans hin, ht.busy.trans hbusy, ht.position⟩

end Sys2Proof.Machine
end

section
/-! SUPPORT. Decoding and encoding are inverse to each other (R102 to R104, R108, R109), and the address of a cell
(R60, R91). -/

namespace Sys2Proof.Machine

/-! ## Event words -/

theorem pinOfNum_eq_some_iff (n : Nat) (p : Pin) : pinOfNum n = some p ↔ n = p.num := by
  constructor
  · unfold pinOfNum
    split <;> rintro ⟨⟩ <;> rfl
  · rintro rfl
    cases p <;> rfl

/-- Every number below 7 is one of a pin (R102). -/
theorem exists_pinOfNum {n : Nat} (h : n < 7) : ∃ p, pinOfNum n = some p := by
  interval_cases n <;> exact ⟨_, rfl⟩

/-- An event word is its level bit and its pin number (R102). -/
theorem eventWord_fields (w : BitVec 4) : BitVec.ofBool (w.getLsbD 3) ++ w.extractLsb' 0 3 = w := by
  revert w; decide

/-- A word decodes to an event exactly if it is the event's word (R102). -/
theorem decodeEvent_eq_ok_iff (w : BitVec 4) (e : PinEvent) : decodeEvent w = .ok e ↔ w = e.word := by
  constructor
  · intro h
    unfold decodeEvent at h
    split at h <;> cases h
    next p hp =>
      have hnum : BitVec.ofNat 3 p.num = w.extractLsb' 0 3 := by
        rw [← (pinOfNum_eq_some_iff _ p).mp hp, BitVec.ofNat_toNat, BitVec.setWidth_eq]
      rw [PinEvent.word, hnum, eventWord_fields]
  · rintro rfl
    obtain ⟨v, p⟩ := e
    cases v <;> cases p <;> rfl

/-! ## State codes -/

/-- A code names a state exactly if it is the state's code (R103). -/
theorem stateOfCode_eq_some_iff (w : BitVec 3) (q : SeqState) : stateOfCode w = some q ↔ w = q.code := by
  constructor
  · unfold stateOfCode
    split <;> rintro ⟨⟩ <;> exact BitVec.eq_of_toNat_eq (by assumption)
  · rintro rfl
    cases q <;> rfl

/-- Every code up to 4 names a state (R103). -/
theorem exists_stateOfCode {w : BitVec 3} (h : w.toNat ≤ 4) : ∃ q, stateOfCode w = some q := by
  have hsome : ∀ w : BitVec 3, w.toNat ≤ 4 → (stateOfCode w).isSome := by decide
  exact Option.isSome_iff_exists.mp (hsome w h)

/-! ## Code words -/

/-- What a code word can decode to, by its format (R102, R103, R109). -/
theorem decode_eq_ok {w : CodeWord} {i : Instr} (h : decode w = .ok i) :
    (∃ e : PinEvent, w = .event e.word ∧ i = e.instr) ∨ (∃ q : SeqState, w = .state q.code ∧ i = q.instr) ∨
      (w = .cmd 1#1 ∧ i = .start) := by
  cases w with
  | event w =>
    cases hd : decodeEvent w with
    | error r => simp [decode, hd] at h
    | ok e =>
      have hi : e.instr = i := by simpa [decode, hd] using h
      exact .inl ⟨e, congrArg _ ((decodeEvent_eq_ok_iff w e).mp hd), hi.symm⟩
  | state w =>
    cases hq : stateOfCode w with
    | none => simp [decode, decodeState, hq] at h
    | some q =>
      have hi : q.instr = i := by simpa [decode, decodeState, hq] using h
      exact .inr (.inl ⟨q, congrArg _ ((stateOfCode_eq_some_iff w q).mp hq), hi.symm⟩)
  | cmd w =>
    by_cases hw : w = 1#1
    · subst hw
      cases h
      exact .inr (.inr ⟨rfl, rfl⟩)
    · simp [decode, hw] at h

theorem encode_event (e : PinEvent) : encode e.instr = .event e.word := by
  obtain ⟨v, p⟩ := e
  cases v <;> cases p <;> rfl

theorem encode_state (q : SeqState) : encode q.instr = .state q.code := by
  cases q <;> rfl

theorem decode_encode (i : Instr) : decode (encode i) = .ok i := by
  cases i <;> rfl

theorem eq_encode_of_decode {w : CodeWord} {i : Instr} (h : decode w = .ok i) : w = encode i := by
  rcases decode_eq_ok h with ⟨e, rfl, rfl⟩ | ⟨q, rfl, rfl⟩ | ⟨rfl, rfl⟩
  · exact (encode_event e).symm
  · exact (encode_state q).symm
  · rfl

/-- An ill-formed word is refused (R104). -/
theorem decode_of_not_wellFormed {w : CodeWord} (h : w.wellFormed = false) : ∃ r, decode w = .error r := by
  cases w with
  | event w => exact ⟨_, decode_event_reservedPin (by simpa [CodeWord.wellFormed, eventWordOk] using h)⟩
  | state w => exact ⟨_, decode_state_unused (by simpa [CodeWord.wellFormed, stateWordOk] using h)⟩
  | cmd w =>
    have hw : w ≠ 1#1 := by simpa [CodeWord.wellFormed, cmdWordOk] using h
    exact ⟨.noRequest, by simp [decode, hw]⟩

/-- A well-formed word decodes (R102, R103, R109). -/
theorem decode_of_wellFormed {w : CodeWord} (h : w.wellFormed = true) : ∃ i, decode w = .ok i := by
  cases w with
  | event w =>
    have hne : w.extractLsb' 0 3 ≠ 7#3 := by simpa [CodeWord.wellFormed, eventWordOk] using h
    obtain ⟨p, hp⟩ := exists_pinOfNum (n := (w.extractLsb' 0 3).toNat) (by bv_omega)
    exact ⟨PinEvent.instr ⟨w.getLsbD 3, p⟩, by simp only [decode, decodeEvent, hp]⟩
  | state w =>
    obtain ⟨q, hq⟩ := exists_stateOfCode (w := w) (by simpa [CodeWord.wellFormed, stateWordOk] using h)
    exact ⟨q.instr, by simp only [decode, decodeState, hq]⟩
  | cmd w =>
    have hw : w = 1#1 := by simpa [CodeWord.wellFormed, cmdWordOk] using h
    exact ⟨.start, by simp [decode, hw]⟩

/-- Settles O4: format by format, a word decodes exactly if it is a word of the tables. -/
theorem decodeEncodeAgree : Obligations.DecodeEncodeAgree := by
  refine ⟨decode_encode, fun _ _ => eq_encode_of_decode, fun w => ⟨decode_of_not_wellFormed, ?refused⟩⟩
  case refused =>
    rintro ⟨r, hr⟩
    refine Bool.eq_false_iff.mpr fun hwf => ?_
    obtain ⟨i, hi⟩ := decode_of_wellFormed hwf
    rw [hr] at hi
    cases hi

/-! ## Traces -/

/-- A trace decodes one word at a time (R108). -/
theorem decodeTrace_cons_eq_ok_iff (w : BitVec 4) (ws : List (BitVec 4)) (es : List PinEvent) :
    decodeTrace (w :: ws) = .ok es ↔ ∃ e es', decodeEvent w = .ok e ∧ decodeTrace ws = .ok es' ∧ e :: es' = es := by
  cases hw : decodeEvent w <;> cases hws : decodeTrace ws <;> simp [decodeTrace, hw, hws]

/-- Settles O5: by induction on the words. -/
theorem traceWordsRoundTrip : Obligations.TraceWordsRoundTrip := by
  intro es ws
  induction ws generalizing es with
  | nil => cases es <;> simp [decodeTrace]
  | cons w ws ih =>
    rw [decodeTrace_cons_eq_ok_iff]
    simp only [ih, decodeEvent_eq_ok_iff]
    constructor
    · rintro ⟨e, es', rfl, rfl, rfl⟩
      rfl
    · intro h
      cases es with
      | nil => cases h
      | cons e es => cases h; exact ⟨e, es, rfl, rfl, rfl⟩

/-! ## Cells -/

/-- Settles O8: the laws of the memory at the address of a cell. -/
theorem memoryReadWrite : Obligations.MemoryReadWrite :=
  fun m a v => ⟨by rw [Memory.read_write, if_pos rfl], fun b hb => by rw [Memory.read_write, if_neg hb],
    Memory.wf_write a v⟩

/-- A cell address has one row index, half and column (R91). -/
theorem cellAddr_injective {idx idx' : BitVec 4} {half half' : BitVec 1} {col col' : BitVec 5}
    (h : cellAddr Params.chip idx' half' col' = cellAddr Params.chip idx half col) :
    idx' = idx ∧ half' = half ∧ col' = col := by
  have hnat := congrArg BitVec.toNat h
  rw [cellAddr_toNat, cellAddr_toNat] at hnat
  bv_omega

/-- Every address is the concatenation of its fields (R91). -/
theorem cellAddr_fields (a : CellAddr) :
    cellAddr Params.chip (a.extractLsb' 5 4) (a.extractLsb' 9 1) (a.extractLsb' 0 5) = a := by
  refine BitVec.eq_of_toNat_eq ?_
  have ha := a.isLt
  rw [cellAddr_toNat]
  simp only [BitVec.extractLsb'_toNat, Nat.shiftRight_eq_div_pow]
  omega

/-- Settles O6: the fields are digits of the address, so they are all of it and unique. -/
theorem cellAddressFields : Obligations.CellAddressFields := by
  refine ⟨fun idx half col => ⟨rfl, cellAddr_toNat idx half col⟩, fun a => ⟨_, _, _, cellAddr_fields a, ?unique⟩⟩
  case unique =>
    intro idx' half' col' h
    exact cellAddr_injective (h.trans (cellAddr_fields a).symm)

end Sys2Proof.Machine
end

section
/-! SUPPORT. Reset (R37), where an instruction can stop (R183, R230, U12), and the arrows of the state machine (R179). -/

namespace Sys2Proof.Machine

/-! ## Reset -/

/-- Settles O1: the registers are written out in `State.reset`, and Idle with nothing to come is a fixed point. -/
theorem resetState : Obligations.ResetState :=
  ⟨rfl, rfl, rfl, rfl, rfl, rfl, rfl, rfl, rfl, rfl, rfl, rfl, Memory.read_nil, step_idle rfl rfl⟩

/-- Settles O2: in Idle every counter is 0 and the latch window is closed, and the trace is empty. -/
theorem resetMeetsInvariants : Obligations.ResetMeetsInvariants :=
  ⟨by decide, latchInv_of_st (.inl rfl), rfl⟩

/-! ## The two stops -/

/-- The data step on a cell that holds no value stops (R261, U12). -/
theorem exec_shift_unwritten {s : State} (hph : s.ph = .data)
    (hread : s.fb.read (32 * (16 * s.half.toNat + s.idx.toNat) + s.col.toNat) = none) :
    exec .shiftRowPairBits s = .fault (.unwrittenCell (s.half ++ s.idx ++ s.col)) := by
  have hexec : exec .shiftRowPairBits s = dataStep Params.chip s := by simp only [exec, execShiftRowPairBits, hph]
  rw [← cellAddr_toNat] at hread
  rw [hexec, dataStep_unwritten _ s hread]
  rfl

/-- Settles O23: the address of the data step is `{HALF, IDX, COL}`. -/
theorem unwrittenCellFaults : Obligations.UnwrittenCellFaults :=
  fun _ => exec_shift_unwritten

/-- ShiftRowPairBits stops on an unwritten cell, and only there. -/
theorem exec_shift_cases (s : State) :
    (∃ t, exec .shiftRowPairBits s = .next t ∧ ¬ (s.ph = .data ∧
      s.fb.read (32 * (16 * s.half.toNat + s.idx.toNat) + s.col.toNat) = none)) ∨
    (exec .shiftRowPairBits s = .fault (.unwrittenCell (s.half ++ s.idx ++ s.col)) ∧ s.ph = .data ∧
      s.fb.read (32 * (16 * s.half.toNat + s.idx.toNat) + s.col.toNat) = none) := by
  cases hph : s.ph with
  | data =>
    cases hread : s.fb.read (32 * (16 * s.half.toNat + s.idx.toNat) + s.col.toNat) with
    | none => exact .inr ⟨exec_shift_unwritten hph hread, rfl, rfl⟩
    | some p => exact .inl ⟨_, exec_shift_data hph hread, by simp⟩
  | clkLow => exact .inl ⟨_, exec_shift_clkLow hph, by simp⟩
  | clkHigh => exact .inl ⟨_, exec_shift_clkHigh hph, by simp⟩

/-- Every other instruction but `START` answers a next state (R230). -/
theorem exec_next {i : Instr} (hshift : i ≠ .shiftRowPairBits) (hstart : i ≠ .start) (s : State) :
    ∃ t, exec i s = .next t := by
  cases i
  case shiftRowPairBits => exact absurd rfl hshift
  case start => exact absurd rfl hstart
  all_goals exact ⟨_, rfl⟩

/-- The only fault of an instruction (R230, U12). -/
theorem exec_eq_fault_iff (i : Instr) (s : State) (r : Fault) :
    exec i s = .fault r ↔ i = .shiftRowPairBits ∧ s.ph = .data ∧
      s.fb.read (32 * (16 * s.half.toNat + s.idx.toNat) + s.col.toNat) = none ∧
      r = .unwrittenCell (s.half ++ s.idx ++ s.col) := by
  by_cases hshift : i = .shiftRowPairBits
  · subst hshift
    rcases exec_shift_cases s with ⟨t, hs, hnot⟩ | ⟨hs, hph, hread⟩ <;> rw [hs]
    · exact iff_of_false nofun fun ⟨_, hph, hread, _⟩ => hnot ⟨hph, hread⟩
    · simp [hph, hread, eq_comm]
  · refine iff_of_false (fun h => ?_) fun h => hshift h.1
    by_cases hstart : i = .start
    · subst hstart
      by_cases hst : s.st = .idle
      · rw [exec_start_idle hst] at h; cases h
      · rw [exec_start_refused hst] at h; cases h
    · obtain ⟨t, ht⟩ := exec_next hshift hstart s
      rw [ht] at h
      cases h

/-- The only refusal of an instruction (R183). -/
theorem exec_eq_refused_iff (i : Instr) (s : State) (r : Refusal) :
    exec i s = .refused r ↔ i = .start ∧ s.st ≠ .idle ∧ r = .startWhileBusy := by
  by_cases hstart : i = .start
  · subst hstart
    by_cases hst : s.st = .idle
    · rw [exec_start_idle hst]
      exact iff_of_false nofun fun ⟨_, hnot, _⟩ => hnot hst
    · rw [exec_start_refused hst]
      simp [hst, eq_comm]
  · refine iff_of_false (fun h => ?_) fun h => hstart h.1
    by_cases hshift : i = .shiftRowPairBits
    · subst hshift
      rcases exec_shift_cases s with ⟨t, hs, -⟩ | ⟨hs, -⟩ <;> rw [hs] at h <;> cases h
    · obtain ⟨t, ht⟩ := exec_next hshift hstart s
      rw [ht] at h
      cases h

/-- Settles O28: the two stops, each with its exact condition. -/
theorem onlyTwoStops : Obligations.OnlyTwoStops :=
  ⟨exec_eq_fault_iff, exec_eq_refused_iff⟩

/-! ## The arrows -/

/-- The counters lead to SetRowAddress after the last bit of a row pair, and nowhere before it (R157). -/
theorem advance_st (s : State) :
    (advance Params.chip s).st =
      if s.half = 1#1 ∧ s.ch = .red ∧ s.col = 31#5 then .setRowAddress else s.st := by
  have hcol : s.col = 31#5 ↔ ¬ s.col.toNat < 31 := by bv_omega
  have hhalf : s.half = 1#1 ↔ ¬ s.half = 0#1 := by bv_omega
  rw [advance_chip]
  simp only [hcol, hhalf]
  by_cases hlast : s.col.toNat < 31
  · simp [hlast]
  · cases hch : s.ch with
    | blue => simp [hlast]
    | green => simp [hlast]
    | red => by_cases hfirst : s.half = 0#1 <;> simp [hlast, hfirst]

/-- Where ShiftRowPairBits goes (R155 to R157). -/
theorem exec_shift_st {s t : State} (h : exec .shiftRowPairBits s = .next t) :
    t.st = if s.ph = .clkHigh ∧ s.half = 1#1 ∧ s.ch = .red ∧ s.col = 31#5 then .setRowAddress else s.st := by
  rcases exec_shift_next h with ⟨hph, v, rfl⟩ | ⟨hph, rfl⟩ | ⟨hph, rfl⟩
  · simp [hph]
  · simp [hph, clockLowStep]
  · simp [hph, clockHighStep, advance_st]

/-- Settles O34: state by state. -/
theorem stateTransitions : Obligations.StateTransitions := by
  refine ⟨fun s t _ h => ?start, fun s t h => ?own⟩
  case start =>
    obtain ⟨-, rfl⟩ := exec_start_next h
    rfl
  case own =>
    cases hst : s.st <;> rw [hst] at h
    case idle => cases h; exact hst
    case disableLatch => cases h; rfl
    case shiftRowPairBits => rw [exec_shift_st h, hst]
    case setRowAddress => cases h; rw [addressStep_eq]; exact if_congr .rfl hst rfl
    case enableLatch => cases h; exact enableStep_st s

end Sys2Proof.Machine
end

section
/-! SUPPORT. The fourteen pin operations as whole next states (R131 to R144). -/

namespace Sys2Proof.Machine

/-- Settles O13: no level of `DATA` makes an edge at the sink. -/
theorem dataLineOperations : Obligations.DataLineOperations :=
  fun s => ⟨congrArg Host.Outcome.next (emit_data true s), congrArg Host.Outcome.next (emit_data false s), rfl, rfl⟩

/-- Settles O14: `CLR CLK` makes no edge, and `SET CLK` makes one exactly where it finds 0. -/
theorem clockLineOperations : Obligations.ClockLineOperations :=
  fun s => ⟨congrArg Host.Outcome.next (emit_clk_low s), fun hclk => congrArg Host.Outcome.next (emit_clk_high s hclk),
    fun hclk hlat => congrArg Host.Outcome.next (emit_clk_rise s hclk hlat), rfl, rfl⟩

/-- Settles O15: the rising edge that the monitor marks. -/
theorem shiftWhileLatchedFaults : Obligations.ShiftWhileLatchedFaults :=
  fun s hclk hlat => congrArg Host.Outcome.next (emit_clk_rise_latched s hclk hlat)

/-- Settles O16: `CLR LAT` makes no transition, and `SET LAT` makes one exactly where it finds 0. -/
theorem latchLineOperations : Obligations.LatchLineOperations :=
  fun s => ⟨congrArg Host.Outcome.next (emit_lat_low s), fun hlat => congrArg Host.Outcome.next (emit_lat_high s hlat),
    fun hlat => congrArg Host.Outcome.next (emit_lat_rise s hlat), rfl, rfl⟩

/-- An address line makes no edge at the sink (R137 to R144). -/
theorem exec_addressLine (ab : BitVec 2) (v : Bool) (s : State) :
    exec (PinEvent.instr ⟨v, addrPin ab⟩) s =
      .next (s.afterEvent ⟨v, addrPin ab⟩ (setLevel s.pin (addrPin ab) v) s.out) := by
  rw [exec_event, emit_addrPin]

/-- Settles O17: the four address lines, each at both levels. -/
theorem addressLineOperations : Obligations.AddressLineOperations :=
  fun s => ⟨exec_addressLine 0#2 true s, exec_addressLine 0#2 false s, exec_addressLine 1#2 true s,
    exec_addressLine 1#2 false s, exec_addressLine 2#2 true s, exec_addressLine 2#2 false s, exec_addressLine 3#2 true s,
    exec_addressLine 3#2 false s⟩

end Sys2Proof.Machine
end

section
/-! SUPPORT. What comes from outside: the host's moves, foreign event words and the tester's placed word (R63, R71,
R209(b), R240). -/

namespace Sys2Proof.Machine

/-! ## Writes of the frame buffer -/

/-- A write that is taken (R71, R240). -/
theorem step_write {s : State} {a : CellAddr} {v : Pixel} {rest : List Input}
    (h : s.inputs = .host (.write a v) :: rest ∧ s.busy = false ∨ s.inputs = .forced (.write a v) :: rest) :
    step s = hostWrite Params.chip a v { s with inputs := rest } := by
  rcases h with ⟨hin, hbusy⟩ | hin
  · simp [step, fetch, hin, hbusy, moveAction]
  · simp [step, fetch, hin, moveAction]

theorem hostWrite_idle (c : Config) (a : CellAddr) (v : Pixel) {s : State} (hbusy : s.busy = false) :
    hostWrite c a v s = .next { s with fb := s.fb.write a.toNat v } := by
  simp only [hostWrite, hbusy]

theorem hostWrite_busy (a : CellAddr) (v : Pixel) {s : State} (hbusy : s.busy = true) :
    hostWrite Params.chip a v s = .refused .writeWhileBusy := by
  simp only [hostWrite, hbusy, Params.chip]

/-- Settles O10: a write that is taken meets `BUSY` at 0, or is refused. -/
theorem hostWriteOnlyWhenIdle : Obligations.HostWriteOnlyWhenIdle := by
  refine fun s a v rest => ⟨fun hbusy hin => ?idle, fun hbusy hin => ?busy⟩
  case idle =>
    rw [step_write (hin.imp_left fun hi => ⟨hi, hbusy⟩)]
    exact hostWrite_idle Params.chip a v hbusy
  case busy =>
    rw [step_write (.inr hin)]
    exact hostWrite_busy a v hbusy

/-- Settles O11: under `torn` both values of `BUSY` let the write through. -/
theorem tornWriteLands : Obligations.TornWriteLands := by
  intro s a v
  cases hbusy : s.busy <;> simp only [hostWrite, hbusy]

/-! ## What a step executes -/

/-- A request of 0 leaves the step to the sequencer (R109). -/
theorem step_no_request {s : State} {rest : List Input}
    (h : s.inputs = .host (.cmd 0#1) :: rest ∧ s.busy = false ∨ s.inputs = .forced (.cmd 0#1) :: rest) :
    step s = exec s.st.instr { s with inputs := rest } := by
  rcases h with ⟨hin, hbusy⟩ | hin
  · simp [step, fetch, hin, hbusy, moveAction, seqAction, monitorForeign]
  · simp [step, fetch, hin, moveAction, seqAction, monitorForeign]

section Foreign

variable {s : State} {w : BitVec 4} {rest : List Input} (hin : s.inputs = .foreign w :: rest)
include hin

/-- A foreign word that decodes is executed, marked first while `BUSY` is 1 (R209(b)). -/
theorem step_foreign {i : Instr} (hd : decode (.event w) = .ok i) :
    step s = exec i (monitorForeign (.event w) { s with inputs := rest }) := by
  simp only [step, fetch, hin, hd]

theorem step_foreign_idle {i : Instr} (hd : decode (.event w) = .ok i) (hbusy : s.busy = false) :
    step s = exec i { s with inputs := rest } := by
  simp [step_foreign hin hd, monitorForeign, hbusy]

theorem step_foreign_busy {i : Instr} (hd : decode (.event w) = .ok i) (hbusy : s.busy = true) :
    step s = exec i (raiseProtocol .foreignPinWrite { s with inputs := rest }) := by
  simp [step_foreign hin hd, monitorForeign, hbusy]

theorem step_foreign_undecodable {r : DecodeError} (hd : decode (.event w) = .error r) :
    step s = .refused (.undecodable r) := by
  simp only [step, fetch, hin, hd]

end Foreign

/-- Settles O41: by the first input. -/
theorem stepRunsDecodedWord : Obligations.StepRunsDecodedWord :=
  fun s => ⟨decode_stateCode s.st, step_no_inputs, fun _ _ => step_host_waits, fun _ => step_no_request,
    fun _ => step_request, fun _ _ _ hd hbusy hin => step_foreign_idle hin hd hbusy,
    fun _ _ _ hd hbusy hin => step_foreign_busy hin hd hbusy, fun _ _ _ hd hin => step_foreign_undecodable hin hd⟩

/-- Settles O33: the mark is made, and then the event is one of the pin operations. -/
theorem foreignPinWriteFaults : Obligations.ForeignPinWriteFaults := by
  intro s e rest hbusy hin
  obtain ⟨t, hexec, hlevel, hothers, htrace, hcontrol, htbusy, htfb, htin, -⟩ :=
    pinOperationsShare e (raiseProtocol .foreignPinWrite { s with inputs := rest })
  have hstep := (step_foreign_busy hin (decode_eventWord e) hbusy).trans hexec
  refine ⟨t, hstep, ?mark, htrace, hlevel, hothers, hcontrol, htbusy.trans hbusy, htfb, htin⟩
  case mark =>
    rw [exec_event] at hexec
    cases hexec
    exact emit_fault_of_some rfl

/-! ## The host -/

/-- Settles O58: a move that is taken is a request or a write, neither of which touches the pins and the sink; one that
waits leaves the step to the sequencer. -/
theorem hostMovesNeverTouchPins : Obligations.HostMovesNeverTouchPins := by
  refine ⟨fun s t m rest hbusy hst hin h => ?idle, fun s t m rest hbusy hin h => ?busy, fun s ⟨_, hbusy, _⟩ => hbusy⟩
  case idle =>
    rcases step_host hin hbusy with hs | hs | ⟨a, v, -, hs⟩ <;> rw [hs] at h
    · rw [hst] at h
      cases h
      exact ⟨rfl, rfl, rfl, rfl, rfl, rfl⟩
    · obtain ⟨-, rfl⟩ := exec_start_next h
      exact ⟨rfl, rfl, rfl, rfl, rfl, rfl⟩
    · obtain ⟨-, rfl⟩ := hostWrite_next h
      exact ⟨rfl, rfl, rfl, rfl, rfl, rfl⟩
  case busy =>
    rw [step_host_waits hin hbusy] at h
    exact ⟨h, exec_inputs h, exec_fb h⟩

/-! ## The placed word -/

theorem tableWord_of_decode {nbits w : Nat} {i : Instr} (h : decodeTableWord nbits w = some i) :
    ∃ cw, tableWord nbits w = some cw ∧ decode cw = .ok i := by
  unfold decodeTableWord at h
  split at h
  next cw hcw =>
    split at h
    next hd => cases h; exact ⟨cw, hcw, hd⟩
    next => cases h
  next => cases h

theorem SeqState.instr_injective : Function.Injective SeqState.instr := by
  intro q q' h
  have hcode : q.code = q'.code := CodeWord.state.inj (by rw [← encode_state, ← encode_state, h])
  exact Option.some.inj
    (((stateOfCode_eq_some_iff _ q).mpr rfl).symm.trans ((stateOfCode_eq_some_iff _ q').mpr hcode))

/-- A pin event's operation is no state's operation: their code words have different formats (R109). -/
theorem eventInstr_ne_stateInstr (e : PinEvent) (q : SeqState) : e.instr ≠ q.instr := by
  intro h
  have hword := congrArg encode h
  rw [encode_event, encode_state] at hword
  cases hword

theorem stateInstr_ne_start (q : SeqState) : q.instr ≠ .start := by
  cases q <;> nofun

/-- The step of a state with a word placed in it runs the word on the state that the word is placed for (log 5). -/
theorem step_placeWord {w : CodeWord} {i : Instr} (hd : decode w = .ok i) (s : State) :
    ∃ q : SeqState, step (placeWord w s) = exec i { s with st := q, busy := decide (q ≠ .idle) } ∧
      (∀ q' : SeqState, i = q'.instr → q = q') ∧ (i = .start → q = .idle) := by
  rcases decode_eq_ok hd with ⟨e, rfl, rfl⟩ | ⟨q, rfl, rfl⟩ | ⟨rfl, rfl⟩
  · exact ⟨.idle, step_foreign_idle rfl (decode_eventWord e) rfl,
      fun q' h => absurd h (eventInstr_ne_stateInstr e q'), fun _ => rfl⟩
  · refine ⟨q, ?_, fun q' h => SeqState.instr_injective h, fun h => absurd h (stateInstr_ne_start q)⟩
    cases q <;> exact step_no_request (.inr rfl)
  · exact ⟨.idle, step_request (.inl ⟨rfl, rfl⟩), fun q' h => absurd h.symm (stateInstr_ne_start q'), fun _ => rfl⟩

/-- Settles O42: a table word that decodes is placed as a code word. -/
theorem placedWordRunsNext : Obligations.PlacedWordRunsNext := by
  intro s nbits w i h
  obtain ⟨cw, hcw, hd⟩ := tableWord_of_decode h
  obtain ⟨q, hstep, hstate, hstart⟩ := step_placeWord hd s
  have hplace : s.withFetchWord nbits w = placeWord cw s := by simp only [State.withFetchWord, hcw]
  rw [hplace, hstep]
  exact ⟨_, rfl, rfl, rfl, rfl, rfl, rfl, rfl, rfl, rfl, rfl, rfl, rfl, rfl, rfl, rfl, decide_eq_true_iff, hstate, hstart⟩

end Sys2Proof.Machine
end

section
/-! SUPPORT. The sink cannot influence the sequencer (R200, R210): every operation takes two states that differ only in the
sink to two such states, or stops alike on both. -/

namespace Sys2Proof.Machine

/-- Two outcomes that an observer of everything but the sink cannot tell apart. -/
inductive SameOutcome : Result → Result → Prop where
  | next {t t' : State} (h : t.SameButSink t') : SameOutcome (.next t) (.next t')
  | fault (r : Fault) : SameOutcome (.fault r) (.fault r)
  | refused (r : Refusal) : SameOutcome (.refused r) (.refused r)

/-- `s` with the sink of `u`. -/
def State.withSink (s u : State) : State := { s with sr := u.sr, out := u.out, fault := u.fault, free := u.free }

/-- A state that agrees with `s` but for the sink is `s` with another sink. -/
theorem eq_withSink {s s' : State} (h : s.SameButSink s') : s' = s.withSink s' := by
  obtain ⟨⟨hst, hidx, hhalf, hch, hcol, hph, hab⟩, hpin, hbusy, hfb, htrace, hin⟩ := h
  rw [State.withSink, hst, hidx, hhalf, hch, hcol, hph, hab, hpin, hbusy, hfb, htrace, hin]

/-- The counters do not look at the sink (R157). -/
theorem advance_withSink (s u : State) :
    advance Params.chip (s.withSink u) = (advance Params.chip s).withSink u := by
  simp only [advance_chip, apply_ite (State.withSink · u)]
  rfl

section Operations

variable {s s' : State} (h : s.SameButSink s')
include h

/-! ## The operations on states -/

theorem emit_sameButSink (c : Config) (p : Pin) (v : Bool) : (emit c p v s).SameButSink (emit c p v s') := by
  rw [eq_withSink h]
  simp [State.SameButSink, State.SameControl, State.withSink]

theorem phase_sameButSink (ph : Phase) : State.SameButSink { s with ph := ph } { s' with ph := ph } := by
  rw [eq_withSink h]
  simp [State.SameButSink, State.SameControl, State.withSink]

theorem advance_sameButSink : (advance Params.chip s).SameButSink (advance Params.chip s') := by
  rw [eq_withSink h, advance_withSink]
  simp [State.SameButSink, State.SameControl, State.withSink]

theorem addressStep_sameButSink : (addressStep Params.chip s).SameButSink (addressStep Params.chip s') := by
  rw [eq_withSink h, addressStep_eq, addressStep_eq]
  exact ⟨⟨rfl, rfl, rfl, rfl, rfl, rfl, rfl⟩, rfl, rfl, rfl, rfl, rfl⟩

theorem disableStep_sameButSink : (disableStep Params.chip s).SameButSink (disableStep Params.chip s') := by
  rw [eq_withSink h]
  simp [State.SameButSink, State.SameControl, State.withSink, disableStep]

theorem enableStep_sameButSink : (enableStep Params.chip s).SameButSink (enableStep Params.chip s') := by
  rw [eq_withSink h]
  by_cases hlast : s.idx = 15#4 <;>
    simp [enableStep_chip, hlast, State.SameButSink, State.SameControl, State.withSink]

theorem raiseProtocol_sameButSink (r : ProtocolFault) : (raiseProtocol r s).SameButSink (raiseProtocol r s') := by
  rw [eq_withSink h]
  simp [State.SameButSink, State.SameControl, State.withSink]

theorem monitorForeign_sameButSink (w : CodeWord) : (monitorForeign w s).SameButSink (monitorForeign w s') := by
  have hbusy : s.busy = s'.busy := by obtain ⟨-, -, hbusy, -⟩ := h; exact hbusy
  cases w with
  | event w =>
    simp only [monitorForeign, ← hbusy]
    split
    · exact raiseProtocol_sameButSink h _
    · exact h
  | state w => exact h
  | cmd w => exact h

/-! ## The operations that can stop -/

theorem dataStep_sameOutcome : SameOutcome (dataStep Params.chip s) (dataStep Params.chip s') := by
  have hsame (v : Bool) := phase_sameButSink (emit_sameButSink h Params.chip .data v) .clkLow
  rw [eq_withSink h] at hsame ⊢
  cases hread : s.fb.read (cellAddr Params.chip s.idx s.half s.col).toNat with
  | none =>
    rw [dataStep_unwritten _ s hread, dataStep_unwritten _ (s.withSink s') hread]
    exact .fault _
  | some p =>
    rw [dataStep_written _ s hread, dataStep_written _ (s.withSink s') hread]
    exact .next (hsame _)

theorem exec_shift_sameOutcome : SameOutcome (exec .shiftRowPairBits s) (exec .shiftRowPairBits s') := by
  have hphase : s.ph = s'.ph := by obtain ⟨⟨-, -, -, -, -, hph, -⟩, -⟩ := h; exact hph
  simp only [exec, execShiftRowPairBits, ← hphase]
  cases s.ph with
  | data => exact dataStep_sameOutcome h
  | clkLow => exact .next (phase_sameButSink (emit_sameButSink h ..) _)
  | clkHigh => exact .next (advance_sameButSink (phase_sameButSink (emit_sameButSink h ..) _))

theorem exec_start_sameOutcome : SameOutcome (exec .start s) (exec .start s') := by
  rw [eq_withSink h]
  by_cases hst : s.st = .idle
  · rw [exec_start_idle hst, exec_start_idle (s := s.withSink s') hst]
    exact .next (by simp [State.SameButSink, State.SameControl, State.withSink])
  · rw [exec_start_refused hst, exec_start_refused (s := s.withSink s') hst]
    exact .refused _

theorem exec_sameOutcome (i : Instr) : SameOutcome (exec i s) (exec i s') := by
  cases i
  case idle => exact .next h
  case disableLatch => exact .next (disableStep_sameButSink h)
  case shiftRowPairBits => exact exec_shift_sameOutcome h
  case setRowAddress => exact .next (addressStep_sameButSink h)
  case enableLatch => exact .next (enableStep_sameButSink h)
  case start => exact exec_start_sameOutcome h
  all_goals exact .next (emit_sameButSink h ..)

theorem hostWrite_sameOutcome (a : CellAddr) (v : Pixel) :
    SameOutcome (hostWrite Params.chip a v s) (hostWrite Params.chip a v s') := by
  rw [eq_withSink h]
  cases hbusy : s.busy with
  | true =>
    rw [hostWrite_busy a v hbusy, hostWrite_busy a v (s := s.withSink s') hbusy]
    exact .refused _
  | false =>
    rw [hostWrite_idle _ a v hbusy, hostWrite_idle _ a v (s := s.withSink s') hbusy]
    exact .next (by simp [State.SameButSink, State.SameControl, State.withSink])

/-! ## The step -/

/-- What a step performs does not depend on the sink. -/
theorem fetch_sameButSink : (fetch s).1 = (fetch s').1 ∧ (fetch s).2.SameButSink (fetch s').2 := by
  have hrest (inp : List Input) : State.SameButSink { s with inputs := inp } { s.withSink s' with inputs := inp } := by
    simp [State.SameButSink, State.SameControl, State.withSink]
  have hmove (m : Move) : moveAction s m = moveAction (s.withSink s') m := by cases m <;> rfl
  rw [eq_withSink h]
  have hin : (s.withSink s').inputs = s.inputs := rfl
  have hbusy : (s.withSink s').busy = s.busy := rfl
  unfold fetch
  rw [hin, hbusy]
  split
  · exact ⟨rfl, hrest s.inputs⟩
  · split
    · exact ⟨rfl, hrest s.inputs⟩
    · exact ⟨hmove _, hrest _⟩
  · exact ⟨hmove _, hrest _⟩
  · exact ⟨rfl, hrest _⟩

theorem step_sameOutcome : SameOutcome (step s) (step s') := by
  obtain ⟨hact, hrest⟩ := fetch_sameButSink h
  unfold step
  generalize fetch s = x at hact hrest ⊢
  generalize fetch s' = x' at hact hrest ⊢
  obtain ⟨act, u⟩ := x
  obtain ⟨act', u'⟩ := x'
  obtain rfl : act = act' := hact
  cases act with
  | write a v => exact hostWrite_sameOutcome hrest a v
  | word w =>
    dsimp only
    cases decode w with
    | ok i => exact exec_sameOutcome (monitorForeign_sameButSink hrest w) i
    | error r => exact .refused _

end Operations

/-- Settles O35: the two steps have the same outcome but for the sink. -/
theorem sinkCannotInfluenceSequencer : Obligations.SinkCannotInfluenceSequencer := by
  intro s s' h
  have hsame := step_sameOutcome h
  refine ⟨fun t ht => ?next, fun r hr => ?fault, fun r hr => ?refused⟩
  case next =>
    rw [ht] at hsame
    cases hs' : step s' <;> rw [hs'] at hsame <;> cases hsame
    next t' ht' => exact ⟨t', rfl, ht'⟩
  case fault =>
    rw [hr] at hsame
    cases hs' : step s' <;> rw [hs'] at hsame <;> cases hsame
    rfl
  case refused =>
    rw [hr] at hsame
    cases hs' : step s' <;> rw [hs'] at hsame <;> cases hsame
    rfl

end Sys2Proof.Machine
end

section
/-! SUPPORT. The expansions of R105 are the closed form (R106, R178) under every value of the parameters. -/

namespace Sys2Proof.Machine

/-! ## Lists by groups -/

/-- The numbers below `m * n`, in `n` groups of `m`. -/
theorem flatMap_range_mul {α : Type} (F : Nat → List α) (m n : Nat) :
    ((List.range n).flatMap fun i => (List.range m).flatMap fun k => F (m * i + k)) = (List.range (m * n)).flatMap F := by
  induction n with
  | zero => rfl
  | succ n ih =>
    rw [List.range_succ, List.flatMap_append, ih, Nat.mul_succ, List.range_add, List.flatMap_append, List.flatMap_map,
      List.flatMap_singleton]

theorem map_range_mul {α : Type} (E : Nat → α) (m n : Nat) :
    ((List.range n).flatMap fun i => (List.range m).map fun k => E (m * i + k)) = (List.range (m * n)).map E := by
  simp only [List.map_eq_flatMap]
  exact flatMap_range_mul (fun j => [E j]) m n

theorem map_range_add {α : Type} (E : Nat → α) (m n : Nat) :
    (List.range (m + n)).map E = (List.range m).map E ++ (List.range n).map fun j => E (m + j) := by
  rw [List.range_add, List.map_append, List.map_map]
  rfl

/-! ## The serial frame under each nesting (D3) -/

section Config

variable (c : Config) (f : Frame) (i : Nat)

/-- `NESTING = row_channel_column` (R98): the half is the outer digit of the bit number. -/
theorem serialBit_row (hnesting : c.nesting = .rowChannelColumn) (half : Nat) (ch : Channel) {n : Nat} (hn : n < 32) :
    serialBit c f i (32 * (3 * half + channelNum ch) + n) = f (rowOf c i half) (colOf c n) ch := by
  have hchannel := channelNum_lt ch
  have hdiv : (32 * (3 * half + channelNum ch) + n) / 96 = half := by omega
  have hmid : (32 * (3 * half + channelNum ch) + n) % 96 / 32 = channelNum ch := by omega
  have hmod : (32 * (3 * half + channelNum ch) + n) % 32 = n := by omega
  simp only [serialBit, hnesting, hdiv, hmid, hmod]
  cases ch <;> rfl

/-- `NESTING = channel_row_column` (D3): the channel is the outer digit. -/
theorem serialBit_channel (hnesting : c.nesting = .channelRowColumn) {half : Nat} (hhalf : half < 2) (ch : Channel)
    {n : Nat} (hn : n < 32) :
    serialBit c f i (32 * (2 * channelNum ch + half) + n) = f (rowOf c i half) (colOf c n) ch := by
  have hdiv : (32 * (2 * channelNum ch + half) + n) / 64 = channelNum ch := by omega
  have hmid : (32 * (2 * channelNum ch + half) + n) % 64 / 32 = half := by omega
  have hmod : (32 * (2 * channelNum ch + half) + n) % 32 = n := by omega
  simp only [serialBit, hnesting, hdiv, hmid, hmod]
  cases ch <;> rfl

/-- The events of the group `g` of 32 bits of the serial frame (R94). -/
def groupBits (g : Nat) : List PinEvent :=
  (List.range 32).flatMap fun n => shiftBit (serialBit c f i (32 * g + n))

/-- A group whose bits are one channel of one row is `SHIFTCH` (R152). -/
theorem groupBits_eq_shiftCh {g row : Nat} {ch : Channel}
    (h : ∀ n < 32, serialBit c f i (32 * g + n) = f row (colOf c n) ch) : groupBits c f i g = shiftCh c f row ch :=
  List.flatMap_congr fun n hn => congrArg shiftBit (h n (List.mem_range.mp hn))

/-- `SHIFTPAIR` is its six groups, in order (R154). -/
theorem shiftPair_eq_groups :
    shiftPair c f i = groupBits c f i 0 ++ groupBits c f i 1 ++ groupBits c f i 2 ++ groupBits c f i 3 ++
      groupBits c f i 4 ++ groupBits c f i 5 := by
  cases hnesting : c.nesting with
  | rowChannelColumn =>
    have hgroup (half : Nat) (ch : Channel) := groupBits_eq_shiftCh c f i fun n => serialBit_row c f i hnesting half ch
    simp only [shiftPair, hnesting, shiftRow, ← hgroup, channelNum, List.append_assoc]
  | channelRowColumn =>
    have hgroup {half : Nat} (hhalf : half < 2) (ch : Channel) :=
      groupBits_eq_shiftCh c f i fun n => serialBit_channel c f i hnesting hhalf ch
    simp only [shiftPair, hnesting, shiftBoth, ← hgroup (show 0 < 2 by decide), ← hgroup (show 1 < 2 by decide),
      channelNum, List.append_assoc]

/-- `SHIFTPAIR i` sends the 192 bits of the serial frame in order, under either nesting (R154). -/
theorem shiftPair_eq_bits :
    shiftPair c f i = (List.range 192).flatMap fun b => shiftBit (serialBit c f i b) := by
  rw [shiftPair_eq_groups, show 192 = 32 * 6 from rfl, ← flatMap_range_mul]
  simp only [List.range, List.range.loop, List.flatMap_cons, List.flatMap_nil, List.append_nil, groupBits,
    List.append_assoc]

/-! ## A row cycle by offset -/

/-- The three events of bit `b` (R106). -/
theorem map_cycleEvent_bit {b : Nat} (hb : b < 192) :
    ((List.range 3).map fun k => cycleEvent c f i (1 + (3 * b + k))) = shiftBit (serialBit c f i b) := by
  have hmod {k : Nat} (hk : k < 3) : (1 + (3 * b + k) - 1) % 3 = k := by omega
  have hdiv : (1 + (3 * b + 0) - 1) / 3 = b := by omega
  have hdata : cycleEvent c f i (1 + (3 * b + 0)) = ⟨serialBit c f i b, .data⟩ := by
    rw [cycleEvent, if_neg (by omega), if_pos (by omega), hmod (by decide), hdiv]
    rfl
  have hlow : cycleEvent c f i (1 + (3 * b + 1)) = ⟨false, .clk⟩ := by
    rw [cycleEvent, if_neg (by omega), if_pos (by omega), hmod (by decide)]
    rfl
  have hhigh : cycleEvent c f i (1 + (3 * b + 2)) = ⟨true, .clk⟩ := by
    rw [cycleEvent, if_neg (by omega), if_pos (by omega), hmod (by decide)]
    rfl
  simp only [List.range, List.range.loop, List.map_cons, List.map_nil, hdata, hlow, hhigh]
  rfl

/-- The shift part of a row cycle (R154). -/
theorem map_cycleEvent_pair :
    ((List.range 576).map fun j => cycleEvent c f i (1 + j)) = shiftPair c f i := by
  rw [shiftPair_eq_bits, show 576 = 3 * 192 from rfl, ← map_range_mul]
  exact List.flatMap_congr fun b hb => map_cycleEvent_bit c f i (List.mem_range.mp hb)

/-- The address part of a row cycle (R173). -/
theorem map_cycleEvent_setAddr : ((List.range 4).map fun j => cycleEvent c f i (577 + j)) = setAddr i := by
  rw [← map_addressEvent]
  refine List.map_congr_left fun j hj => ?_
  have hj4 := List.mem_range.mp hj
  rw [cycleEvent, if_neg (by omega), if_neg (by omega), if_pos (by omega), Nat.add_sub_cancel_left]
  rfl

/-- `ROWCYCLE i` by offset (R106, R176). -/
theorem rowCycle_eq_map : rowCycle c f i = (List.range 582).map (cycleEvent c f i) := by
  rw [show 582 = 1 + 576 + 4 + 1 from rfl, map_range_add, map_range_add, map_range_add, map_cycleEvent_pair,
    map_cycleEvent_setAddr]
  rfl

/-- Event `582*n + k` of a refresh is event `k` of its row cycle number `n` (R178, D14). -/
theorem refreshEvent_offset (n : Nat) {k : Nat} (hk : k < 582) :
    refreshEvent c f (582 * n + k) = cycleEvent c f (indexOf c n) k := by
  rw [refreshEvent, Nat.mul_add_div (by decide), Nat.div_eq_of_lt hk, Nat.add_zero, Nat.mul_add_mod,
    Nat.mod_eq_of_lt hk]

/-- `DRIVE` by position (R177, R178). -/
theorem drive_eq_map : drive c f = (List.range 9312).map (refreshEvent c f) := by
  rw [show 9312 = 582 * 16 from rfl, ← map_range_mul]
  refine List.flatMap_congr fun n _ => (rowCycle_eq_map c f _).trans (List.map_congr_left fun k hk => ?_)
  exact (refreshEvent_offset c f n (List.mem_range.mp hk)).symm

end Config

/-- Settles O51: each part of a row cycle is a part of the closed form. -/
theorem macrosExpandToClosedForm : Obligations.MacrosExpandToClosedForm :=
  fun c f => ⟨rowCycle_eq_map c f, drive_eq_map c f⟩

/-! ## The counts of a refresh (R106) -/

section Counts

variable (f : Frame) {q : PinEvent → Bool} {m a : Nat}

theorem countP_shiftBits (hbit : ∀ v, (shiftBit v).countP q = m) (i n : Nat) :
    (shiftBits f i n).countP q = m * n := by
  induction n with
  | zero => rfl
  | succ n ih => rw [shiftBits_succ, List.countP_append, ih, hbit, Nat.mul_succ]

/-- What occurs `m` times per bit and `a` times in the rest of a row cycle, for every index. -/
theorem countP_drive (hbit : ∀ v, (shiftBit v).countP q = m)
    (hrest : ∀ i, (latOff Params.chip ++ (setAddr i ++ latOn Params.chip)).countP q = a) :
    (drive Params.chip f).countP q = 16 * (m * 192 + a) := by
  have hcycle : (List.countP q ∘ fun n => rowCycle Params.chip f (indexOf Params.chip n)) = fun _ => m * 192 + a := by
    funext n
    rw [← hrest n, ← countP_shiftBits f hbit n, ← shiftPair_eq_shiftBits]
    simp only [Function.comp_apply, indexOf, Params.chip, rowCycle, List.countP_append]
    omega
  rw [drive, List.countP_flatMap, hcycle, List.map_const', List.sum_replicate, List.length_range, smul_eq_mul]

end Counts

/-- An event occurs `16 * (192*m + a)` times in a refresh, by its counts in one bit and in the rest of a row cycle. -/
theorem count_drive (f : Frame) {e : PinEvent} {m a : Nat} (hbit : ∀ v, (shiftBit v).count e = m)
    (hrest : ∀ i, (latOff Params.chip ++ (setAddr i ++ latOn Params.chip)).count e = a) :
    (drive Params.chip f).count e = 16 * (m * 192 + a) :=
  countP_drive f hbit hrest

/-- Settles O52: the counts per bit and per row cycle, of which there are 192 and 16. -/
theorem refreshEventCounts : Obligations.RefreshEventCounts := by
  intro f
  refine ⟨?length, count_drive f (m := 1) (a := 0) ?_ ?_, count_drive f (m := 1) (a := 0) ?_ ?_,
    countP_drive f (m := 1) (a := 0) ?_ ?_, countP_drive f (m := 0) (a := 4) ?_ ?_,
    count_drive f (m := 0) (a := 1) ?_ ?_, count_drive f (m := 0) (a := 1) ?_ ?_⟩
  case length => rw [drive_eq_map, List.length_map, List.length_range]
  all_goals
    intro x
    simp [shiftBit, pulse, wr, latOff, latOn, setAddr, Params.chip]

end Sys2Proof.Machine
end

section
/-! SUPPORT. The serial frame by its digits (R66, R94): each bit of each cell has one position, and what the other values
of the parameters do to it (D2, D4, D5). -/

namespace Sys2Proof.Machine

/-! ## The digits of a bit number -/

/-- Every bit number below 192 is `96*half + 32*ch + col` (R94). -/
theorem exists_bit_digits {b : Nat} (hb : b < 192) :
    ∃ (half : Nat) (ch : Channel) (col : Nat), half < 2 ∧ col < 32 ∧ b = 96 * half + 32 * channelNum ch + col := by
  have hchannel {n : Nat} (hn : n < 3) : channelNum (channelOf n) = n := by interval_cases n <;> rfl
  refine ⟨b / 96, channelOf (b % 96 / 32), b % 32, by omega, by omega, ?_⟩
  rw [hchannel (by omega)]
  omega

theorem channelNum_injective : Function.Injective channelNum := by
  intro ch ch' h
  have hof : ∀ ch : Channel, channelOf (channelNum ch) = ch := by intro ch; cases ch <;> rfl
  rw [← hof ch, h, hof]

/-! ## Every bit has one position -/

/-- The position of the data write of a channel bit of a cell (R66, R94). -/
def bitPosition (row col : Nat) (ch : Channel) : Nat :=
  582 * (row % 16) + (1 + 3 * (96 * (row / 16) + 32 * channelNum ch + col))

theorem bitPosition_lt {row col : Nat} (ch : Channel) (hrow : row < 32) (hcol : col < 32) :
    bitPosition row col ch < 9312 := by
  have hchannel := channelNum_lt ch
  unfold bitPosition
  omega

theorem refreshEvent_bitPosition (f : Frame) {row col : Nat} (ch : Channel) (hrow : row < 32) (hcol : col < 32) :
    refreshEvent Params.chip f (bitPosition row col ch) = ⟨f row col ch, .data⟩ := by
  have hchannel := channelNum_lt ch
  have hpair : row % 16 + 16 * (row / 16) = row := Nat.mod_add_div row 16
  rw [bitPosition, refreshEvent_cycle f _ (by omega), cycleEvent_data f _ (by omega), serialBit_chip f _ _ ch hcol,
    hpair]

/-- A frame is told from the others by its bits: equal reads for every frame are reads of one bit. -/
theorem frame_index_injective {row row' col col' : Nat} {ch ch' : Channel}
    (h : ∀ f : Frame, f row' col' ch' = f row col ch) : row' = row ∧ col' = col ∧ ch' = ch := by
  simpa using h fun r c k => decide (r = row ∧ c = col ∧ k = ch)

/-- A position that sends the bit whatever the frame holds is the bit's position. -/
theorem eq_bitPosition {row col K : Nat} {ch : Channel} (hK : K < 9312)
    (h : ∀ f : Frame, refreshEvent Params.chip f K = ⟨f row col ch, .data⟩) : K = bitPosition row col ch := by
  obtain ⟨i, k, hk, rfl, -⟩ := exists_cycle_offset K
  simp only [refreshEvent_cycle _ i hk] at h
  obtain ⟨b, hb, rfl⟩ := cycleEvent_pin_data (fun _ _ _ => false) i hk (congrArg PinEvent.pin (h _))
  obtain ⟨half, ch', col', hhalf, hcol', rfl⟩ := exists_bit_digits hb
  have hread (f : Frame) : f (i + 16 * half) col' ch' = f row col ch := by
    have hevent := h f
    rw [cycleEvent_data f i hb, serialBit_chip f i half ch' hcol'] at hevent
    exact congrArg PinEvent.level hevent
  obtain ⟨rfl, rfl, rfl⟩ := frame_index_injective hread
  unfold bitPosition
  omega

/-- Settles O53: the digits of the position are the row, the channel and the column. -/
theorem everyBitSentOnce : Obligations.EveryBitSentOnce :=
  fun row col ch hrow hcol => ⟨bitPosition row col ch,
    ⟨bitPosition_lt ch hrow hcol, fun f => refreshEvent_bitPosition f ch hrow hcol⟩, fun _ => eq_bitPosition⟩

/-! ## The other values of the parameters -/

/-- `high_first` swaps the two rows of a pair (D2). -/
theorem serialBit_highFirst (f : Frame) (i : Nat) {b : Nat} (hb : b < 192) :
    serialBit { Params.chip with pairOrder := .highFirst } f i b = serialBit Params.chip f i ((b + 96) % 192) := by
  obtain ⟨half, ch, col, hhalf, hcol, rfl⟩ := exists_bit_digits hb
  have hchannel := channelNum_lt ch
  have hgroup : 96 * half + 32 * channelNum ch + col = 32 * (3 * half + channelNum ch) + col := by omega
  have hswap : (96 * half + 32 * channelNum ch + col + 96) % 192 = 96 * (1 - half) + 32 * channelNum ch + col := by omega
  rw [hswap, serialBit_chip f i _ ch hcol, hgroup, serialBit_row _ f i rfl half ch hcol]
  rfl

/-- `descending` sends the columns of each channel backwards (D4). -/
theorem serialBit_descending (f : Frame) (i : Nat) {b : Nat} (hb : b < 192) :
    serialBit { Params.chip with colOrder := .descending } f i b =
      serialBit Params.chip f i (32 * (b / 32) + (31 - b % 32)) := by
  obtain ⟨half, ch, col, hhalf, hcol, rfl⟩ := exists_bit_digits hb
  have hgroup : 96 * half + 32 * channelNum ch + col = 32 * (3 * half + channelNum ch) + col := by omega
  have hback : 32 * ((96 * half + 32 * channelNum ch + col) / 32) + (31 - (96 * half + 32 * channelNum ch + col) % 32) =
      96 * half + 32 * channelNum ch + (31 - col) := by omega
  rw [hback, serialBit_chip f i half ch (by omega), hgroup, serialBit_row _ f i rfl half ch hcol]
  rfl

/-- Latch level 0 swaps `SET LAT` and `CLR LAT`, which are the first and the last event of a row cycle (D5). -/
theorem cycleEvent_latchLevel (f : Frame) (i : Nat) {k : Nat} (hk : k < 582) :
    cycleEvent { Params.chip with latEnableLevel := false } f i k =
      if (cycleEvent Params.chip f i k).pin = .lat
      then ⟨!(cycleEvent Params.chip f i k).level, .lat⟩ else cycleEvent Params.chip f i k := by
  have hpin := cycleEvent_pin_lat_iff f i hk
  by_cases hlatch : k = 0 ∨ k = 581
  · rw [if_pos (hpin.mpr hlatch)]
    rcases hlatch with rfl | rfl <;> rfl
  · have hfirst : k ≠ 0 := by omega
    have hlast : k ≤ 580 := by omega
    rw [if_neg (mt hpin.mp hlatch)]
    simp only [cycleEvent, if_neg hfirst, if_pos hlast]
    rfl

/-- Settles O57: a bit by its digits, an event by its offset in the row cycle. -/
theorem parametersPermuteSerialFrame : Obligations.ParametersPermuteSerialFrame :=
  fun f i _ K hb => ⟨serialBit_highFirst f i hb, serialBit_descending f i hb,
    cycleEvent_latchLevel f (K / 582) (Nat.mod_lt K (by decide))⟩

end Sys2Proof.Machine
end

section
/-! SUPPORT. Positions and the sequencer's registers (R27). -/

namespace Sys2Proof.Machine

/-! ## The offset in the row cycle -/

/-- The offset of a busy state in its row cycle (R27). -/
def State.offset (s : State) : Nat :=
  match s.st with
  | .idle => 0
  | .disableLatch => 0
  | .shiftRowPairBits => 1 + 3 * s.bitNum + phaseNum s.ph
  | .setRowAddress => 577 + s.ab.toNat
  | .enableLatch => 581

theorem position_eq_offset {s : State} (hst : s.st ≠ .idle) : position s = 582 * s.idx.toNat + s.offset := by
  cases h : s.st with
  | idle => exact absurd h hst
  | disableLatch => rw [position_disableLatch h, State.offset, h]; rfl
  | shiftRowPairBits => rw [position_shift h, State.offset, h]
  | setRowAddress => rw [position_setRowAddress h, State.offset, h]
  | enableLatch => rw [position_enableLatch h, State.offset, h]

/-- The state of the sequencer that issues the event at an offset (R106). -/
def stateAtOffset (k : Nat) : SeqState :=
  if k = 0 then .disableLatch else if k ≤ 576 then .shiftRowPairBits else if k ≤ 580 then .setRowAddress else .enableLatch

theorem phaseNum_lt (ph : Phase) : phaseNum ph < 3 := by
  cases ph <;> decide

theorem offset_lt (s : State) : s.offset < 582 := by
  have hnum := bitNum_lt s
  have hph := phaseNum_lt s.ph
  have hab := s.ab.isLt
  unfold State.offset
  split <;> omega

/-- The offset tells the state of the sequencer. -/
theorem st_eq_stateAtOffset {s : State} (hst : s.st ≠ .idle) : s.st = stateAtOffset s.offset := by
  have hnum := bitNum_lt s
  have hph := phaseNum_lt s.ph
  have hab := s.ab.isLt
  unfold stateAtOffset
  cases h : s.st with
  | idle => exact absurd h hst
  | disableLatch => simp [State.offset, h]
  | shiftRowPairBits =>
    simp only [State.offset, h]
    rw [if_neg (by omega), if_pos (by omega)]
  | setRowAddress =>
    simp only [State.offset, h]
    rw [if_neg (by omega), if_neg (by omega), if_pos (by omega)]
  | enableLatch => simp [State.offset, h]

/-! ## Equal positions, equal registers -/

/-- The phase of a number (R25). -/
def phaseOf : Nat → Phase
  | 0 => .data | 1 => .clkLow | _ => .clkHigh

theorem phaseNum_injective : Function.Injective phaseNum := by
  intro ph ph' h
  have hof : ∀ ph : Phase, phaseOf (phaseNum ph) = ph := by intro ph; cases ph <;> rfl
  rw [← hof ph, h, hof]

/-- The bit number tells the counters (R94). -/
theorem counters_eq_of_bitNum {s t : State} (h : s.bitNum = t.bitNum) :
    s.half = t.half ∧ s.ch = t.ch ∧ s.col = t.col := by
  have hch := channelNum_lt s.ch
  have hch' := channelNum_lt t.ch
  have hcol := s.col.isLt
  have hcol' := t.col.isLt
  unfold State.bitNum at h
  exact ⟨BitVec.eq_of_toNat_eq (by omega), channelNum_injective (by omega), BitVec.eq_of_toNat_eq (by omega)⟩

/-- In a row cycle, equal offsets mean equal registers: those the state does not use are 0 (R38). -/
theorem sameControl_of_offset {s t : State} (hs : s.Inv) (ht : t.Inv) (hsi : s.st ≠ .idle) (hti : t.st ≠ .idle)
    (hidx : s.idx = t.idx) (h : s.offset = t.offset) : s.SameControl t := by
  have hst : s.st = t.st := by rw [st_eq_stateAtOffset hsi, st_eq_stateAtOffset hti, h]
  obtain ⟨-, -, hscounters, hsab, -⟩ := hs
  obtain ⟨-, -, htcounters, htab, -⟩ := ht
  refine ⟨hst, hidx, ?_⟩
  by_cases hshift : s.st = .shiftRowPairBits
  · have htshift := hst ▸ hshift
    simp only [State.offset, hshift, htshift] at h
    have hph := phaseNum_lt s.ph
    have hph' := phaseNum_lt t.ph
    obtain ⟨hhalf, hch, hcol⟩ := counters_eq_of_bitNum (s := s) (t := t) (by omega)
    refine ⟨hhalf, hch, hcol, phaseNum_injective (by omega), ?_⟩
    rw [hsab (by simp [hshift]), htab (by simp [htshift])]
  · obtain ⟨hhalf, hch, hcol, hph⟩ := hscounters hshift
    obtain ⟨hhalf', hch', hcol', hph'⟩ := htcounters (hst ▸ hshift)
    refine ⟨hhalf.trans hhalf'.symm, hch.trans hch'.symm, hcol.trans hcol'.symm, hph.trans hph'.symm, ?_⟩
    by_cases haddress : s.st = .setRowAddress
    · simp only [State.offset, haddress, hst ▸ haddress] at h
      exact BitVec.eq_of_toNat_eq (by omega)
    · rw [hsab haddress, htab (hst ▸ haddress)]

/-! ## Every position is one of a state -/

/-- A busy state at the row cycle of index `i`, everything else as at reset. -/
def State.busyAtRow (q : SeqState) (i : Nat) : State :=
  { State.reset with st := q, busy := true, idx := BitVec.ofNat 4 i }

theorem inv_of_fb_nil {s : State} (hfb : s.fb = []) (hbusy : s.busy = true) (hst : s.st ≠ .idle)
    (hcounters : s.st ≠ .shiftRowPairBits → s.half = 0#1 ∧ s.ch = .blue ∧ s.col = 0#5 ∧ s.ph = .data)
    (hab : s.st ≠ .setRowAddress → s.ab = 0#2) : s.Inv :=
  ⟨by rw [hfb]; rfl, iff_of_true hbusy hst, hcounters, hab, fun h => absurd h hst⟩

theorem exists_state_at_offset (i : Nat) {k : Nat} (hk : k < 582) :
    ∃ s : State, s.Inv ∧ s.busy = true ∧ s.idx = BitVec.ofNat 4 i ∧ s.offset = k := by
  rcases offset_cases hk with rfl | ⟨b, hb, hbit⟩ | ⟨j, hj, rfl⟩ | rfl
  · exact ⟨.busyAtRow .disableLatch i, inv_of_fb_nil rfl rfl nofun (fun _ => ⟨rfl, rfl, rfl, rfl⟩) fun _ => rfl,
      rfl, rfl, rfl⟩
  · obtain ⟨half, ch, col, hhalf, hcol, rfl⟩ := exists_bit_digits hb
    refine ⟨{ State.busyAtRow .shiftRowPairBits i with
      half := BitVec.ofNat 1 half, ch := ch, col := BitVec.ofNat 5 col,
      ph := phaseOf (k - 1 - 3 * (96 * half + 32 * channelNum ch + col)) }, ?inv, rfl, rfl, ?offset⟩
    case inv => simp [State.Inv, State.busyAtRow, State.reset, Memory.wf, Memory.wfFrom]
    case offset =>
      have hphase {j : Nat} (hj : j < 3) : phaseNum (phaseOf j) = j := by interval_cases j <;> rfl
      change 1 + 3 * (96 * (BitVec.ofNat 1 half).toNat + 32 * channelNum ch + (BitVec.ofNat 5 col).toNat) +
        phaseNum (phaseOf _) = k
      rw [BitVec.toNat_ofNat, BitVec.toNat_ofNat, Nat.mod_eq_of_lt hhalf, Nat.mod_eq_of_lt hcol, hphase (by omega)]
      omega
  · refine ⟨{ State.busyAtRow .setRowAddress i with ab := BitVec.ofNat 2 j }, ?inv, rfl, rfl, ?offset⟩
    case inv => simp [State.Inv, State.busyAtRow, State.reset, Memory.wf, Memory.wfFrom]
    case offset => exact congrArg (577 + ·) (Nat.mod_eq_of_lt hj)
  · exact ⟨.busyAtRow .enableLatch i, inv_of_fb_nil rfl rfl nofun (fun _ => ⟨rfl, rfl, rfl, rfl⟩) fun _ => rfl,
      rfl, rfl, rfl⟩

/-- Settles O47: `K` is the index and the offset, and the offset tells the state and its counters. -/
theorem positionDeterminesRegisters : Obligations.PositionDeterminesRegisters := by
  have hactive {s : State} (hinv : s.Inv) (hbusy : s.busy = true) : s.st ≠ .idle := by
    obtain ⟨-, hst, -⟩ := hinv
    exact hst.mp hbusy
  refine ⟨fun s hinv hbusy => ?below, fun s t hs ht hsb htb h => ?same, fun K hK => ?every⟩
  case below =>
    have hidx := s.idx.isLt
    have hoffset := offset_lt s
    rw [position_eq_offset (hactive hinv hbusy)]
    omega
  case same =>
    have hoffset := offset_lt s
    have hoffset' := offset_lt t
    rw [position_eq_offset (hactive hs hsb), position_eq_offset (hactive ht htb)] at h
    exact sameControl_of_offset hs ht (hactive hs hsb) (hactive ht htb) (BitVec.eq_of_toNat_eq (by omega)) (by omega)
  case every =>
    obtain ⟨i, k, hk, rfl, -⟩ := exists_cycle_offset K
    obtain ⟨s, hinv, hbusy, hidx, hoffset⟩ := exists_state_at_offset i hk
    refine ⟨s, hinv, hbusy, ?_⟩
    rw [position_eq_offset (hactive hinv hbusy), hidx, hoffset, BitVec.toNat_ofNat, Nat.mod_eq_of_lt (by omega)]

end Sys2Proof.Machine
end

section
/-! SUPPORT. The address-change window (R173, R267, R268), and the pins and the panel after a refresh (R181, R182). -/

namespace Sys2Proof.Machine

/-! ## The address lines, one by one -/

/-- Bit `3 - j` of `ADDR` is the level of the line that `AB = j` selects (R33, R173). -/
theorem addr_getLsbD (s : State) {j : Nat} (hj : j < 4) :
    (addr s).getLsbD (3 - j) = level s.pin (addrPin (BitVec.ofNat 2 j)) := by
  simp only [addr, BitVec.getLsbD_append]
  interval_cases j <;> simp [addrPin]

theorem addrPin_eq_iff {j n : Nat} (hj : j < 4) (hn : n < 4) :
    addrPin (BitVec.ofNat 2 j) = addrPin (BitVec.ofNat 2 n) ↔ j = n := by
  refine ⟨fun h => ?_, fun h => h ▸ rfl⟩
  have hnum := congrArg Pin.num h
  rw [addrPin_num, addrPin_num, BitVec.toNat_ofNat, BitVec.toNat_ofNat] at hnum
  omega

/-- After `n` of the four writes of index `i`, the `n` upper lines hold its bits and the others are as before (R267). -/
theorem level_addressEvents (r : PinReg) (i : Nat) {n j : Nat} (hn : n ≤ 4) (hj : j < 4) :
    level (replayPins r (addressEvents i n)) (addrPin (BitVec.ofNat 2 j)) =
      if j < n then i.testBit (3 - j) else level r (addrPin (BitVec.ofNat 2 j)) := by
  induction n with
  | zero => rfl
  | succ n ih =>
    rw [addressEvents_succ, replayPins_concat, addressEvent, level_setLevel, ih (by omega)]
    simp only [addrPin_eq_iff hj (show n < 4 by omega)]
    rcases Nat.lt_trichotomy j n with hlt | rfl | hgt
    · rw [if_neg (by omega), if_pos hlt, if_pos (by omega)]
    · rw [if_pos rfl, if_pos (by omega)]
    · rw [if_neg (by omega), if_neg (by omega), if_neg (by omega)]

/-- Settles O44: the state after `n` steps is `afterAddress n`. -/
theorem addressLinesChangeMsbFirst : Obligations.AddressLinesChangeMsbFirst := by
  intro s n hst hab hin hf hn
  refine ⟨s.afterAddress n, run_afterAddress hst hab hin hf hn, fun j hj => ?lines, rfl, rfl, rfl, ?whole⟩
  case lines =>
    rw [addr_getLsbD _ hj, addr_getLsbD _ hj, ← BitVec.testBit_toNat]
    exact level_addressEvents s.pin s.idx.toNat hn hj
  case whole =>
    rintro rfl
    exact ⟨addr_afterAddress s, rfl, rfl⟩

/-! ## The pins after a refresh -/

/-- Along a run the pins are written by the events that the trace gets (R28, R36). -/
theorem run_pins {n : Nat} {s t : State} (h : core.run n s = .next t) :
    ∃ es, t.trace = s.trace ++ es ∧ t.pin = replayPins s.pin es := by
  induction n generalizing s with
  | zero => cases h; exact ⟨[], (List.append_nil _).symm, rfl⟩
  | succ n ih =>
    obtain ⟨u, hstep, hrun⟩ := run_succ_next h
    obtain ⟨es, htrace, hpin⟩ := ih hrun
    rcases step_pin_trace hstep with ⟨hupin, hutrace⟩ | ⟨e, hupin, hutrace⟩
    · exact ⟨es, by rw [htrace, hutrace], by rw [hpin, hupin]⟩
    · exact ⟨e :: es, by rw [htrace, hutrace, List.append_assoc]; rfl, by rw [hpin, hupin]; rfl⟩

theorem refreshPins_add (r : PinReg) (f : Frame) (K n : Nat) :
    refreshPins r f (K + n) =
      replayPins (refreshPins r f K) ((List.range n).map fun j => refreshEvent Params.chip f (K + j)) := by
  rw [refreshPins, map_range_add, replayPins, List.foldl_append]
  rfl

/-- The last eight events of a row cycle are its last bit, the address writes and `SET LAT` (R106), which write every
pin. -/
theorem refreshPins_cycle_end (r : PinReg) (f : Frame) (i : Nat) :
    refreshPins r f (582 * i + 582) = replayPins (refreshPins r f (582 * i + 574))
      (shiftBit (serialBit Params.chip f i 191) ++ setAddr i ++ latOn Params.chip) := by
  have hevents : ((List.range 8).map fun j => cycleEvent Params.chip f i (574 + j)) =
      shiftBit (serialBit Params.chip f i 191) ++ setAddr i ++ latOn Params.chip := rfl
  rw [show 582 * i + 582 = 582 * i + 574 + 8 from rfl, refreshPins_add, ← hevents]
  refine congrArg (replayPins _) (List.map_congr_left fun j hj => ?_)
  have hj8 := List.mem_range.mp hj
  rw [Nat.add_assoc, refreshEvent_cycle f i (by omega)]

/-- The pins after the last row cycle of a refresh (R181). -/
structure PinsAtRest (f : Frame) (r : PinReg) : Prop where
  data : level r .data = f 31 31 .red
  clk : level r .clk = true
  lat : level r .lat = true
  a8 : level r .a8 = true
  a4 : level r .a4 = true
  a2 : level r .a2 = true
  a1 : level r .a1 = true

theorem refreshPins_atRest (r : PinReg) (f : Frame) : PinsAtRest f (refreshPins r f 9312) := by
  have hbit : serialBit Params.chip f 15 191 = f 31 31 .red := serialBit_chip f 15 1 .red (show 31 < 32 by decide)
  rw [show 9312 = 582 * 15 + 582 from rfl, refreshPins_cycle_end, hbit]
  constructor <;>
    simp [replayPins, shiftBit, wr, pulse, setAddr, latOn, Params.chip, level_setLevel, Nat.testBit_eq_decide_div_mod_eq]

theorem addr_eq_of_atRest {f : Frame} {s : State} (h : PinsAtRest f s.pin) : addr s = 15#4 := by
  rw [addr, h.a8, h.a4, h.a2, h.a1]
  rfl

/-! ## The panel after a refresh -/

/-- `START` with `FAULT` at 0 begins an undisturbed run (R170). -/
theorem step_start_unmarked {s : State} (hst : s.st = .idle) (hbusy : s.busy = false)
    (hin : s.inputs = [.host (.cmd 1#1)]) (hf : s.fault = none) : ∃ u, step s = .next u ∧ Unmarked u :=
  ⟨_, (step_request (.inl ⟨hin, hbusy⟩)).trans (exec_start_idle hst), rfl, hf, latchInv_of_st (.inr rfl)⟩

theorem run_start_unmarked {s t : State} (hst : s.st = .idle) (hbusy : s.busy = false)
    (hin : s.inputs = [.host (.cmd 1#1)]) (hf : s.fault = none) {n : Nat} (h : core.run (1 + n) s = .next t) :
    Unmarked t := by
  obtain ⟨u, hstep, hu⟩ := step_start_unmarked hst hbusy hin hf
  rw [run_add 1 n (run_succ_of_next 0 hstep)] at h
  exact hu.run h

/-- The last row cycle of a refresh is that of index 15, so its rows are what the output stage ends with (R176, R177). -/
theorem refresh_shows_last_row {s t : State} (hst : s.st = .idle) (hbusy : s.busy = false)
    (hin : s.inputs = [.host (.cmd 1#1)]) (hfb : s.fb.complete) (hf : s.fault = none)
    (h : core.run (1 + 9312) s = .next t) {r c : Nat} (ch : Channel) (hr : r < 32) (hc : c < 32) :
    lit t r c ch = (decide (r % 16 = 15) && s.fb.frame r c ch) := by
  obtain ⟨u, hrun, hu⟩ := run_refresh hst hbusy hin hfb (n := 582 * 15) (by decide)
  have hposition := (position_eq_offset hu.st).symm.trans hu.position
  have hoffsetLt := offset_lt u
  have hidx : u.idx.toNat = 15 := by omega
  have hoffset : u.offset = 0 := by omega
  have hdisable : u.st = .disableLatch := by rw [st_eq_stateAtOffset hu.st, hoffset]; rfl
  obtain ⟨v, hcycle, -, -, -, -, hlit⟩ := rowCycleShowsItsRows u hdisable hu.inputs
    (run_start_unmarked hst hbusy hin hf hrun).fault (hu.fb.symm ▸ hfb)
  obtain rfl : t = v := by
    rw [show 1 + 9312 = 1 + 582 * 15 + 582 from rfl, run_add _ _ hrun, hcycle] at h
    exact (Host.Outcome.next.inj h).symm
  rw [hlit r c ch hr hc, hidx, hu.fb]

/-- Settles O50: the pins are those that the closed form leaves, and the last row cycle is what the panel shows. -/
theorem pinsAfterRefresh : Obligations.PinsAfterRefresh := by
  intro s p hst hbusy hin hfb hread
  obtain ⟨t, hrun, htrace, htst, htbusy, hidx, hhalf, hch, hcol, hph, hab, -, -⟩ :=
    (refreshTraceIsClosedForm s hst hbusy hin hfb).1
  obtain ⟨es, hes, hpin⟩ := run_pins hrun
  have hevents := List.append_cancel_left (hes.symm.trans htrace)
  have hrest : PinsAtRest s.fb.frame t.pin := by
    rw [hpin, hevents]
    exact refreshPins_atRest s.pin s.fb.frame
  have hred : s.fb.frame 31 31 .red = p.getLsbD 2 := frame_of_read (row := 31) (col := 31) hread .red
  refine ⟨t, hrun, hrest.data.trans hred, hrest.clk, hrest.lat, hrest.a8, hrest.a4, hrest.a2, hrest.a1,
    addr_eq_of_atRest hrest, ⟨htst, hidx, hhalf, hch, hcol, hph, hab⟩, htbusy, fun hf => ?shown⟩
  case shown =>
    refine ⟨⟨htst, htbusy, (run_start_unmarked hst hbusy hin hf hrun).fault⟩, fun r c ch hr hc => ?_⟩
    have hrows : r % 16 = 15 ↔ r = 15 ∨ r = 31 := by omega
    rw [refresh_shows_last_row hst hbusy hin hfb hf hrun ch hr hc]
    simp only [hrows]

end Sys2Proof.Machine
end
